-- ==== Sys2Proof/Word.lean ====
section
/-! DEFINITION. The words of the Ognite core: the bit vectors whose widths the spec fixes
(spec/00_scope.md R7 and R9, spec/10_state.md R22 to R32, spec/30_encoding.md R77 to R79). -/

namespace Sys2Proof

/-- A buffer cell, a stream byte or a duty-table entry (R22, R51). -/
abbrev Byte := BitVec 8

/-- The 5-bit brightness level of a SET token (R71). -/
abbrev Level := BitVec 5

/-- A value of the 10-bit phase register PH (R24, R77). -/
abbrev Phase := BitVec 10

/-- The step kind PH[9:6] (R77). -/
abbrev PhaseKind := BitVec 4

/-- The index field PH[5:0]: a scan position, a buffer slot or 0 (R77). -/
abbrev PhaseIndex := BitVec 6

/-- A 2-bit event code or reset-cause code (R79, R80). -/
abbrev EventCode := BitVec 2

end Sys2Proof
end

