-- ==== Sys2Proof/Config.lean ====
section
/-! DEFINITION. The block's configuration, fixed at build time and read-only at run time
(spec/00_scope.md R8, spec/10_state.md R34, spec/70_reset_and_hazards.md R191), the read-only
stream memory (spec/20_memory.md R50 and R51), and the free values of POWER_ON (R39). -/

namespace Sys2Proof

/-- The contents of the stream ROM: (address, byte) pairs with rising addresses, no listed byte
equal to what an unlisted address reads as (log 5). -/
abbrev Memory := List Host.Cell

/-- The configuration of R8 and R34 and the step costs of R191. A model takes each as an argument:
no step writes it, and statements hold for every value of it (log 1). -/
structure Config where
  /-- DUTY_TABLE[0..31], level to duty cycle (R110). -/
  dutyTable : Vector Byte 32
  /-- ROW_LINE[0..7], the physical line of each row (R111, log 13). -/
  rowLine : Vector (Fin 13) 8
  /-- COL_LINE[0..4], the physical line of each column (R111, log 13). -/
  colLine : Vector (Fin 13) 5
  /-- ROW_POL[0..7], the polarity bit of each row (R111). -/
  rowPol : Vector (BitVec 1) 8
  /-- SCAN_ORDER[0..39], the cell visited at each scan position (R111, log 13). -/
  scanOrder : Vector (Fin 40) 40
  /-- STREAM, the encoded animation (R51). -/
  stream : Memory
  /-- STREAM_LEN, bytes in the stream ROM. -/
  streamLen : BitVec 16
  /-- FRAMECOUNT, frames in the asset. -/
  frameCount : BitVec 16
  /-- REFRESH_RATE, hertz; no rule of a step reads it. -/
  refreshRate : Nat
  /-- REFRESH_PER_FRAME, refreshes per decoded frame. -/
  refreshPerFrame : BitVec 8
  /-- CLK_HZ, clock cycles per second; no rule of a step reads it. -/
  clkHz : Nat
  /-- STEADY_INTERVAL, clock cycles (R160). -/
  steadyInterval : Nat
  /-- DEFAULT_INTERVAL, clock cycles (R160). -/
  defaultInterval : Nat
  /-- PULSE_MIN, PULSE_BASE and PULSE_SLOPE, clock cycles (R112). -/
  pulseMin : Nat
  pulseBase : Nat
  pulseSlope : Nat
  /-- C_RESET, from a reset event to the start of DISPATCH (R191). -/
  cReset : Nat
  cDispatch : Nat
  cColdInit : Nat
  cArm : Nat
  /-- C_CELL_SKIP and C_CELL_PULSE, SCAN_CELL without and with a pulse, less the hold (R191). -/
  cCellSkip : Nat
  cCellPulse : Nat
  cScanEnd : Nat
  /-- C_DECODE_BEGIN and C_DECODE_BEGIN_RESET, without and with the loop reset (R191). -/
  cDecodeBegin : Nat
  cDecodeBeginReset : Nat
  /-- C_TOKEN_KEEP and C_TOKEN_SET, less refills (R191). -/
  cTokenKeep : Nat
  cTokenSet : Nat
  /-- C_REFILL, one refill inside NEXT_BIT (R191). -/
  cRefill : Nat
  /-- THE MODEL'S OWN (log 11, DESIGN CHOICE): the cost of a DECODE_TOKEN step that ends in
  STREAM_OVERRUN after reading 0..5 bits, which no rule states. -/
  cTokenOverrun : Vector Nat 6
  deriving DecidableEq, Repr

/-- DESIGN CHOICE (log 1): the configuration of the state after reset. Its values are those of the
spec's example (spec/95_test_vectors.md section 2, "an example only, not the hardware's values")
and the defaults of R8; no asset is loaded, so the stream lists nothing. -/
def Config.sample : Config where
  dutyTable := #v[0, 8, 16, 24, 32, 41, 49, 57, 65, 74, 82, 90, 98, 106, 115, 123,
    131, 139, 148, 156, 164, 172, 180, 189, 197, 205, 213, 222, 230, 238, 246, 255]
  rowLine := #v[0, 1, 2, 3, 4, 5, 6, 7]
  colLine := #v[8, 9, 10, 11, 12]
  rowPol := #v[1, 0, 1, 0, 1, 0, 1, 0]
  scanOrder := #v[0, 1, 2, 3, 4, 5, 6, 7, 8, 9, 10, 11, 12, 13, 14, 15, 16, 17, 18, 19,
    20, 21, 22, 23, 24, 25, 26, 27, 28, 29, 30, 31, 32, 33, 34, 35, 36, 37, 38, 39]
  stream := []
  streamLen := 65535
  frameCount := 1
  refreshRate := 62
  refreshPerFrame := 4
  clkHz := 2480186
  steadyInterval := 40000
  defaultInterval := 16
  pulseMin := 2
  pulseBase := 1
  pulseSlope := 3
  cReset := 1
  cDispatch := 1
  cColdInit := 1
  cArm := 1
  cCellSkip := 1
  cCellPulse := 1
  cScanEnd := 1
  cDecodeBegin := 1
  cDecodeBeginReset := 1
  cTokenKeep := 1
  cTokenSet := 1
  cRefill := 1
  cTokenOverrun := #v[1, 1, 1, 1, 1, 1]

/-- Free values (R39, log 4): what the retained memory holds after the n-th POWER_ON, under no law.
Each has no body, so nothing can be proved of its value. -/
opaque Config.drawCell : Nat → Fin 40 → Byte
/-- Free value: FC after the n-th POWER_ON (R39, log 4). -/
opaque Config.drawFc : Nat → BitVec 16
/-- Free value: RC after the n-th POWER_ON (R39, log 4). -/
opaque Config.drawRc : Nat → BitVec 8
/-- Free value: CUR after the n-th POWER_ON (R39, log 4). -/
opaque Config.drawCur : Nat → BitVec 16
/-- Free value: WB after the n-th POWER_ON (R39, log 4). -/
opaque Config.drawWb : Nat → BitVec 8
/-- Free value: NB after the n-th POWER_ON (R39, log 4). -/
opaque Config.drawNb : Nat → BitVec 4

end Sys2Proof
end

