-- ==== Sys2Proof/Syntax.lean ====
section
/-! DEFINITION. The instructions of the Ognite core: one constructor for each row of
spec/opcode_table.json. The table has three opcode spaces (log 17): the tokens of the bitstream
(spec/30_encoding.md R70), the step kinds of the phase register (R77) and the events (R79). -/

namespace Sys2Proof

/-- A token of the bitstream (R70): what the FrameDecoder executes for one buffer slot. -/
inductive Token where
  /-- `0`: the pixel keeps its duty cycle (R92). -/
  | keep
  /-- `1LLLLL`: the pixel gets the duty cycle of `level` (R93). -/
  | set (level : Level)
  deriving DecidableEq, Repr

/-- One constructor for each row of the opcode table. -/
inductive Instr where
  /-- Token `0`, R92. -/
  | keep
  /-- Token `1LLLLL`, R93. -/
  | set (level : Level)
  /-- PH = 0x040, R132. -/
  | dispatch
  /-- PH = 0x080, R133. -/
  | coldInit
  /-- PH = 0x0C0 + p, R134: p = 0 is the cold path, p = 1 the warm path. -/
  | armTimer (p : BitVec 1)
  /-- PH = 0x100 + k, R115. -/
  | scanCell (k : PhaseIndex)
  /-- PH = 0x140, R116. -/
  | scanEnd
  /-- PH = 0x180, R94. -/
  | decodeBegin
  /-- PH = 0x1C0 + s, R95. -/
  | decodeToken (slot : PhaseIndex)
  /-- PH = 0x200, R135. -/
  | sleep
  /-- PH = 0x3C0, model-only, R151. -/
  | fault
  /-- Every other value of PH, R78. -/
  | illegal (ph : Phase)
  /-- Event code 0, R131. -/
  | powerOn
  /-- Event code 1, R136. -/
  | timeout
  /-- Event code 2, R137. -/
  | externalReset
  /-- Event code 3, R137. -/
  | otherReset
  deriving DecidableEq, Repr

/-- The instruction a token is. -/
def Token.toInstr : Token → Instr
  | .keep => .keep
  | .set l => .set l

end Sys2Proof
end

