-- ==== Sys2Proof/WellFormed.lean ====
section
/-! DEFINITION. Which instructions are terms of the opcode table: the index ranges of
spec/30_encoding.md R77 and the reserved values of R78. -/

namespace Sys2Proof

/-- The values of PH that R77 defines: a step kind with an index in its legal range. -/
def phaseDefined (ph : Phase) : Bool :=
  let kind := ph.toNat / 64
  let index := ph.toNat % 64
  match kind with
  | 1 | 2 | 5 | 6 | 8 | 15 => index == 0
  | 3 => index < 2
  | 4 | 7 => index < 40
  | _ => false

/-- A scan position or buffer slot is 0..39 (R77); an ILLEGAL term carries a value of PH that no
row defines (R78); every other term is a row of the table whatever its operands. -/
def Instr.wf : Instr → Bool
  | .keep => true
  | .set _ => true
  | .dispatch => true
  | .coldInit => true
  | .armTimer _ => true
  | .scanCell k => k.toNat < 40
  | .scanEnd => true
  | .decodeBegin => true
  | .decodeToken slot => slot.toNat < 40
  | .sleep => true
  | .fault => true
  | .illegal ph => !phaseDefined ph
  | .powerOn => true
  | .timeout => true
  | .externalReset => true
  | .otherReset => true

end Sys2Proof
end

