-- ==== Sys2Proof/Decode.lean ====
section
/-! DEFINITION. Decoding and encoding: the phase register (spec/30_encoding.md R77 and R78), the
event codes (R79) and the tokens of the bitstream (R70 to R73), the packing of stream bits into
bytes (spec/20_memory.md R53), and the reading of a word of spec/opcode_table.json. -/

namespace Sys2Proof

/-! ### The phase register -/

/-- `phase(K, I)` is the value with K in bits 9..6 and I in bits 5..0 (R77). -/
def phase (kind : PhaseKind) (index : PhaseIndex) : Phase := kind ++ index

/-- PH[9:6] (R77). -/
def phaseKind (ph : Phase) : PhaseKind := ph.extractLsb' 6 4

/-- PH[5:0] (R77). -/
def phaseIndex (ph : Phase) : PhaseIndex := ph.extractLsb' 0 6

/-- PH of DISPATCH, where every reset enters (R38, R77). -/
def dispatchPhase : Phase := phase 0x1 0

/-- PH of COLD_INIT (R77). -/
def coldInitPhase : Phase := phase 0x2 0

/-- PH of ARM_TIMER on the cold path (0) or the warm path (1) (R77). -/
def armTimerPhase (p : BitVec 1) : Phase := phase 0x3 (p.setWidth 6)

/-- PH of SCAN_CELL(k) (R77). -/
def scanCellPhase (k : PhaseIndex) : Phase := phase 0x4 k

/-- PH of SCAN_END (R77). -/
def scanEndPhase : Phase := phase 0x5 0

/-- PH of DECODE_BEGIN (R77). -/
def decodeBeginPhase : Phase := phase 0x6 0

/-- PH of DECODE_TOKEN(s) (R77). -/
def decodeTokenPhase (slot : PhaseIndex) : Phase := phase 0x7 slot

/-- PH of SLEEP, the low-power wait (R77). -/
def sleepPhase : Phase := phase 0x8 0

/-- PH of FAULT, the model's stuck state (R77, R151). -/
def faultPhase : Phase := phase 0xF 0

/-- The row of R77 a value of PH selects; every value R77 does not define is ILLEGAL (R78). -/
def decodePhase (ph : Phase) : Instr :=
  let i := phaseIndex ph
  match (phaseKind ph).toNat with
  | 1 => if i = 0 then .dispatch else .illegal ph
  | 2 => if i = 0 then .coldInit else .illegal ph
  | 3 => if i.toNat < 2 then .armTimer (i.setWidth 1) else .illegal ph
  | 4 => if i.toNat < 40 then .scanCell i else .illegal ph
  | 5 => if i = 0 then .scanEnd else .illegal ph
  | 6 => if i = 0 then .decodeBegin else .illegal ph
  | 7 => if i.toNat < 40 then .decodeToken i else .illegal ph
  | 8 => if i = 0 then .sleep else .illegal ph
  | 15 => if i = 0 then .fault else .illegal ph
  | _ => .illegal ph

/-! ### Events -/

/-- The event of a code (R79). -/
def decodeEvent (code : EventCode) : Instr :=
  match code.toNat with
  | 0 => .powerOn
  | 1 => .timeout
  | 2 => .externalReset
  | _ => .otherReset

/-! ### Tokens -/

/-- Why a decoder refuses its input, by name. -/
inductive DecodeError where
  /-- The stream ends inside a token (R74): the only undecodable token input (R75). -/
  | truncatedToken
  /-- Bits are left over after one whole token. -/
  | trailingBits
  deriving DecidableEq, Repr

/-- The level of five stream bits in consumption order, the first the most significant (R71). -/
def levelOfBits (b1 b2 b3 b4 b5 : Bool) : Level :=
  BitVec.ofBool b1 ++ BitVec.ofBool b2 ++ BitVec.ofBool b3 ++ BitVec.ofBool b4 ++ BitVec.ofBool b5

/-- The first token of a bit string in stream order and the bits after it; its first bit alone
decides its length (R70, R72). -/
def decodeToken : List Bool → Except DecodeError (Token × List Bool)
  | false :: rest => .ok (.keep, rest)
  | true :: b1 :: b2 :: b3 :: b4 :: b5 :: rest => .ok (.set (levelOfBits b1 b2 b3 b4 b5), rest)
  | _ => .error .truncatedToken

/-- A token's bits in stream order (R70). -/
def tokenBits : Token → List Bool
  | .keep => [false]
  | .set l => [true, l.getLsbD 4, l.getLsbD 3, l.getLsbD 2, l.getLsbD 1, l.getLsbD 0]

/-- The bits of a sequence of tokens: no padding and no header between them (R73). -/
def streamOfTokens (ts : List Token) : List Bool := ts.flatMap tokenBits

/-- The byte that holds eight stream bits, the first of them in bit 0 (R53); bits that are not
there are the zero bits of `.pad` (R76). -/
def packByte (bits : List Bool) : Byte :=
  BitVec.ofNat 8 ((bits.take 8).foldr (fun b n => b.toNat + 2 * n) 0)

/-- `n` bytes of packed stream bits (R53, R76). -/
def packBytes : Nat → List Bool → List Byte
  | 0, _ => []
  | n + 1, bits => packByte bits :: packBytes n (bits.drop 8)

/-! ### One decoder and one encoder over the three opcode spaces -/

/-- An encoded instruction: a value of PH, an event code, or a bit string in stream order. -/
inductive Code where
  | phase (ph : Phase)
  | event (code : EventCode)
  | token (bits : List Bool)
  deriving DecidableEq, Repr

/-- The instruction of an encoded word, or the name of the reason there is none. -/
def decode : Code → Except DecodeError Instr
  | .phase ph => .ok (decodePhase ph)
  | .event code => .ok (decodeEvent code)
  | .token bits =>
    match decodeToken bits with
    | .ok (t, []) => .ok t.toInstr
    | .ok (_, _ :: _) => .error .trailingBits
    | .error e => .error e

/-- The word of an instruction, from the tables of R70, R77 and R79. -/
def encode : Instr → Code
  | .keep => .token (tokenBits .keep)
  | .set l => .token (tokenBits (.set l))
  | .dispatch => .phase dispatchPhase
  | .coldInit => .phase coldInitPhase
  | .armTimer p => .phase (armTimerPhase p)
  | .scanCell k => .phase (scanCellPhase k)
  | .scanEnd => .phase scanEndPhase
  | .decodeBegin => .phase decodeBeginPhase
  | .decodeToken slot => .phase (decodeTokenPhase slot)
  | .sleep => .phase sleepPhase
  | .fault => .phase faultPhase
  | .illegal ph => .phase ph
  | .powerOn => .event 0
  | .timeout => .event 1
  | .externalReset => .event 2
  | .otherReset => .event 3

/-! ### The words of spec/opcode_table.json -/

/-- The first `n` stream bits of a word whose bit 0 is consumed first (R53). -/
def bitsOfWord (n w : Nat) : List Bool := (List.range n).map w.testBit

/-- The instruction whose bits are `w`, as the opcode table numbers them (log 17). A word of more
than one byte is a value of PH (10 bits). A word of one byte is an event code where it is a value
of two bits, and otherwise a token, its first stream bit in bit 0. -/
def decodeTableWord (nbits w : Nat) : Option Instr :=
  if nbits ≤ 8 then
    if w < 4 then some (decodeEvent (BitVec.ofNat 2 w))
    else if w < 256 then
      match decodeToken (bitsOfWord 8 w) with
      | .ok (t, _) => some t.toInstr
      | .error _ => none
    else none
  else if nbits ≤ 16 ∧ w < 1024 then some (decodePhase (BitVec.ofNat 10 w))
  else none

end Sys2Proof
end

