-- ==== Sys2Proof/Machine/State.lean ====
section
/-! DEFINITION. The state of the Ognite core (spec/10_state.md), the reasons a step stops, and the
state after reset (R38, R39). -/

namespace Sys2Proof.Machine

/-- The kinds of model fault (spec/60_exceptions.md R151). Raising one is a transition to the stuck
state: FAULT records the kind and PH becomes 0x3C0. -/
inductive FaultKind where
  /-- Code 1: a refill is needed at CUR ≥ STREAM_LEN. -/
  | streamOverrun
  /-- Code 2: the timeout comes while PH is not SLEEP. -/
  | wakeOverrun
  /-- Code 3: PH holds a reserved value. -/
  | illegalPhase
  deriving DecidableEq, Repr

/-- The state of one output line (R29, R81); code 3 is reserved and no state of the block. -/
inductive LineState where
  | off
  | high
  | low
  deriving DecidableEq, Repr

/-- A trace record `Pulse(k, i, y, x, hi_line, lo_line, d, on)` (R82). -/
structure Pulse where
  k : Nat
  i : Nat
  y : Nat
  x : Nat
  hiLine : Nat
  loLine : Nat
  d : Nat
  on : Nat
  deriving DecidableEq, Repr

/-- The retained group (R20): what survives every reset but power-on. -/
structure Retained where
  /-- BUF[0..39], the brightness buffer (R22). -/
  buf : Vector Byte 40
  /-- FC, the frame counter (R23). -/
  fc : BitVec 16
  /-- RC, the refresh counter (R25). -/
  rc : BitVec 8
  /-- CUR, the stream address of the next byte to load (R26). -/
  cur : BitVec 16
  /-- WB, the unconsumed bits of the last byte loaded, the next one in bit 0 (R27). -/
  wb : BitVec 8
  /-- NB, the number of unconsumed bits in WB (R28). -/
  nb : BitVec 4
  deriving DecidableEq, Repr

/-- What the environment does at one step boundary (R140, log 6): it may assert either reset, and
where the block sleeps on, `wait` bounds the cycles that pass before the next boundary. -/
structure EnvInput where
  externalReset : Bool
  otherReset : Bool
  wait : Nat
  deriving DecidableEq, Repr

/-- The whole state. `cfg` is the configuration, which no step writes (R20 (3), log 1). -/
structure State where
  cfg : Config
  /-- The retained group (R20 (1)). -/
  ret : Retained
  /-- PH, the phase register: the block's program counter (R24). -/
  ph : Phase
  /-- LINES[0..12], the output lines (R29). -/
  lines : Vector LineState 13
  /-- CAUSE, the reset-cause indicator (R31). -/
  cause : EventCode
  /-- WT_INT, the wake timer's interval select (R32). -/
  wtInt : BitVec 1
  /-- WT_CNT, clock cycles since the wake timer was started (R32). -/
  wtCnt : Nat
  /-- FAULT, model-only: NONE or the kind recorded (R33). -/
  fault : Option FaultKind
  /-- TRACE, model-only: the pulses emitted, oldest first (R30). -/
  trace : List Pulse
  /-- THE MODEL'S OWN (log 7): the run's POWER_ON has happened. -/
  started : Bool
  /-- THE MODEL'S OWN (log 6): what the environment does at the coming step boundaries. -/
  env : List EnvInput
  /-- THE MODEL'S OWN (log 4): how many POWER_ON draws have been made. -/
  draws : Nat
  /-- THE MODEL'S OWN (log 12): clock cycles since the run began. -/
  time : Nat
  deriving DecidableEq, Repr

/-- Why the machine stops. -/
inductive Fault where
  /-- The faulted state is stuck: "no sequencer step, timer event or environment event is enabled
  in it" (R151). Raised by FAULT alone, with what the register FAULT holds. Safe: a run that
  reaches it proves nothing. -/
  | stuck (kind : Option FaultKind)
  deriving DecidableEq, Repr

/-- Why there is no step. -/
inductive Refusal where
  /-- Raised by an arm of exec whose instruction has no meaning in the model yet. Safe. -/
  | notModelled (mnemonic : String)
  /-- Raised by step for a configuration that R152 refuses: it is given no run at all. Safe. -/
  | illegalConfiguration
  deriving DecidableEq, Repr

/-- The retained group that COLD_INIT leaves: all zero (R38, R133). -/
def Retained.zero : Retained where
  buf := Vector.replicate 40 0
  fc := 0
  rc := 0
  cur := 0
  wb := 0
  nb := 0

/-- The block right after POWER_ON (R38, R131). The retained group, which the spec leaves a draw
there (R39), is zero: DESIGN CHOICE, unsafe (log 3). The configuration and the empty environment
schedule are DESIGN CHOICES (log 1, log 6). -/
def State.reset : State where
  cfg := Config.sample
  ret := Retained.zero
  ph := dispatchPhase
  lines := Vector.replicate 13 .off
  cause := 0
  wtInt := 0
  wtCnt := 0
  fault := none
  trace := []
  started := true
  env := []
  draws := 0
  time := 0

end Sys2Proof.Machine
end

