-- ==== Sys2Proof/Machine/Flags.lean ====
section
/-! DEFINITION. The flag-like values. "The block has no condition codes and no status flags"
(spec/10_state.md R35): no step computes a flag. What there is of the kind is the binary reading of
CAUSE (spec/30_encoding.md R80) and the conditions that DECODE_BEGIN and SCAN_END test. -/

namespace Sys2Proof.Machine

/-- The binary indicator `resetCause()` (R80). -/
inductive ResetCause where
  | coldBoot
  | periodicWake
  deriving DecidableEq, Repr

/-- `resetCause()` is PeriodicWake for code 1 and ColdBoot for every other code (R80). -/
def resetCause (cause : EventCode) : ResetCause :=
  if cause = 1 then .periodicWake else .coldBoot

/-- The previous call decoded the last frame (R94). -/
def loopEnds (s : State) : Bool := s.ret.fc == s.cfg.frameCount

/-- The refresh counter after one more refresh, modulo 2^8 (R116). -/
def nextRefreshCount (s : State) : BitVec 8 := s.ret.rc + 1

/-- This refresh is the REFRESH_PER_FRAME-th (R116). -/
def decodeDue (s : State) : Bool := nextRefreshCount s == s.cfg.refreshPerFrame

end Sys2Proof.Machine
end

