-- ==== Sys2Proof/Machine/Operands.lean ====
section
/-! DEFINITION. Operand forms: the cell of a scan position, its row, column and lines, the duty of
a level, the slot of the token being executed, and the on-time of a pulse
(spec/41_scanner.md R110 to R114, spec/40_decoder.md R92 and R93). -/

namespace Sys2Proof.Machine

/-- A scan position or buffer slot in PH[5:0], where it is 0..39 (R77). -/
def cellOperand (index : PhaseIndex) : Option (Fin 40) :=
  if h : index.toNat < 40 then some ⟨index.toNat, h⟩ else none

/-- The row y = i div 5 of cell i (R113). -/
def rowOf (i : Fin 40) : Fin 8 := ⟨i.val / 5, by omega⟩

/-- The column x = i mod 5 of cell i (R113). -/
def colOf (i : Fin 40) : Fin 5 := ⟨i.val % 5, by omega⟩

/-- The line a pulse of cell i drives HIGH: the row's where the row's polarity bit is 1, else the
column's (R114). -/
def highLine (c : Config) (i : Fin 40) : Fin 13 :=
  if c.rowPol[rowOf i] = 1 then c.rowLine[rowOf i] else c.colLine[colOf i]

/-- The line a pulse of cell i drives LOW: the other one of the pair (R114). -/
def lowLine (c : Config) (i : Fin 40) : Fin 13 :=
  if c.rowPol[rowOf i] = 1 then c.colLine[colOf i] else c.rowLine[rowOf i]

/-- `MemRead(DUTY, L, 1)`: the duty cycle of a level (R110, R93). -/
def dutyOf (c : Config) (l : Level) : Byte := c.dutyTable[l.toFin]

/-- T(d), the on-time of a pulse in clock cycles (R112). -/
def onTime (c : Config) (d : Byte) : Nat :=
  if d = 0 then 0
  else if d = 1 then c.pulseMin
  else c.pulseBase + c.pulseSlope * d.toNat

/-- The slot of the enclosing DECODE_TOKEN step, the operand of KEEP and SET (R92, R93, log 15). -/
def currentSlot (s : State) : Option (Fin 40) :=
  if phaseKind s.ph = 0x7 then cellOperand (phaseIndex s.ph) else none

/-- The 2-bit code of a line state (R81). -/
def lineCode : LineState → BitVec 2
  | .off => 0
  | .high => 1
  | .low => 2

/-- The code of a model fault (R151). -/
def faultCode : FaultKind → Nat
  | .streamOverrun => 1
  | .wakeOverrun => 2
  | .illegalPhase => 3

end Sys2Proof.Machine
end

