-- ==== Sys2Proof/Machine/Ops.lean ====
section
/-! DEFINITION. The named operations over memory, the bit reader, the lines and PH; raising a model
fault (spec/60_exceptions.md R151) and the reset entry, the block's only trap
(spec/42_controller.md R130, spec/60_exceptions.md R157). There is no return from a reset (R158). -/

namespace Sys2Proof

/-! ### The stream memory -/

/-- The canonical form: addresses strictly rise, and no listed byte is the 0 that an unlisted
address reads as (log 5). -/
abbrev Memory.wf (m : Memory) : Prop :=
  m.Pairwise (fun a b => a.1 < b.1) ∧ ∀ c ∈ m, c.2 ≠ 0

/-- The byte at an address; an unlisted address reads 0 (log 5). -/
def Memory.read : Memory → Nat → Byte
  | [], _ => 0
  | c :: m, a => if c.1 = a then c.2 else Memory.read m a

/-- Store a byte and keep the canonical form. No step of the block does (R50); the build-time
loader does (log 2). -/
def Memory.write (a : Nat) (b : Byte) : Memory → Memory
  | [] => if b = 0 then [] else [(a, b)]
  | c :: m =>
    if a < c.1 then (if b = 0 then c :: m else (a, b) :: c :: m)
    else if a = c.1 then (if b = 0 then m else (a, b) :: m)
    else c :: Memory.write a b m

/-- Store bytes at rising addresses. -/
def Memory.load (m : Memory) : Nat → List Byte → Memory
  | _, [] => m
  | a, b :: bs => Memory.load (m.write a b) (a + 1) bs

namespace Machine

/-! ### The bit reader (R90, R91) -/

/-- The refill of NEXT_BIT: only when NB = 0, one byte at CUR. `none` is STREAM_OVERRUN (R66). -/
def refill (c : Config) (r : Retained) : Option Retained :=
  if r.nb = 0 then
    if c.streamLen ≤ r.cur then none
    else some { r with wb := c.stream.read r.cur.toNat, cur := r.cur + 1, nb := 8 }
  else some r

/-- Consume WB[0] (R90). -/
def consumeBit (r : Retained) : Bool × Retained :=
  (r.wb.getLsbD 0, { r with wb := r.wb >>> 1, nb := r.nb - 1 })

/-- NEXT_BIT (R90). `none` is STREAM_OVERRUN. -/
def nextBit (c : Config) (r : Retained) : Option (Bool × Retained) :=
  (refill c r).map consumeBit

/-- NEXT_BITS(n) on top of the value `v` read so far: "shifted in MSB-first" (R91). -/
def nextBits (c : Config) : Nat → Nat → Retained → Option (Nat × Retained)
  | 0, v, r => some (v, r)
  | n + 1, v, r =>
    match nextBit c r with
    | none => none
    | some (b, r') => nextBits c n (2 * v + b.toNat) r'

/-- Read one whole token: the flag, and after a set flag the five bits of the level (R72, R93,
R95). `none` is STREAM_OVERRUN. -/
def fetchToken (c : Config) (r : Retained) : Option (Token × Retained) :=
  match nextBit c r with
  | none => none
  | some (false, r1) => some (.keep, r1)
  | some (true, r1) =>
    match nextBits c 5 0 r1 with
    | none => none
    | some (v, r2) => some (.set (BitVec.ofNat 5 v), r2)

/-! ### The brightness buffer -/

/-- `BUF[i]` (R22). -/
def readCell (r : Retained) (i : Fin 40) : Byte := r.buf[i]

/-- `BUF[i] <- v` (R22). -/
def writeCell (r : Retained) (i : Fin 40) (v : Byte) : Retained := { r with buf := r.buf.set i v }

/-- What a token does to the buffer at its slot: KEEP nothing (R92), SET `BUF[s] <- DUTY_TABLE[L]`
(R93). -/
def applyToken (c : Config) (slot : Fin 40) (t : Token) (r : Retained) : Retained :=
  match t with
  | .keep => r
  | .set l => writeCell r slot (dutyOf c l)

/-- Zero the buffer and rewind the bit reader: what the loop reset of DECODE_BEGIN and COLD_INIT
share (R94, R133). -/
def rewind (r : Retained) : Retained :=
  { r with buf := Vector.replicate 40 0, cur := 0, nb := 0, wb := 0, fc := 0 }

/-! ### PH, the lines and the trace -/

/-- `PH <- ph`. -/
def setPhase (ph : Phase) (s : State) : State := { s with ph := ph }

/-- `Drive(l, v)` (R114, R163). -/
def drive (l : Fin 13) (v : LineState) (s : State) : State := { s with lines := s.lines.set l v }

/-- `Emit(e)` (R30). -/
def emit (e : Pulse) (s : State) : State := { s with trace := s.trace ++ [e] }

/-- The record of a pulse (R82). -/
def pulseRecord (c : Config) (k : Fin 40) (i : Fin 40) (d : Byte) : Pulse where
  k := k.val
  i := i.val
  y := (rowOf i).val
  x := (colOf i).val
  hiLine := (highLine c i).val
  loLine := (lowLine c i).val
  d := d.toNat
  on := onTime c d

/-- The pair becomes active: one line HIGH and the other LOW (R114). -/
def activatePair (i : Fin 40) (s : State) : State :=
  drive (lowLine s.cfg i) .low (drive (highLine s.cfg i) .high s)

/-- Both lines of the pair are OFF again (R114). -/
def releasePair (i : Fin 40) (s : State) : State :=
  drive (lowLine s.cfg i) .off (drive (highLine s.cfg i) .off s)

/-- DRIVE_PULSE(k, i, d) (R114). `Hold(T(d))` lets time pass and changes no other state (R112): its
cycles are charged by `stepCost`. Step boundaries see the lines OFF only (log 20). -/
def drivePulse (k i : Fin 40) (d : Byte) (s : State) : State :=
  releasePair i (emit (pulseRecord s.cfg k i d) (activatePair i s))

/-! ### Faults, resets, power -/

/-- `raise Fault(kind)`: FAULT <- kind and PH <- 0x3C0, "and makes no other write" (R151). It is
applied to the state before the step, so all the step wrote is discarded. It is a next state; the
step after it is stuck (log 8). -/
def raiseFault (kind : FaultKind) (s : State) : State :=
  { s with fault := some kind, ph := faultPhase }

/-- RESET(c), the common reset entry and the block's only trap (R130, R38, R157): the volatile
group is set, the retained group kept, and nothing is saved. -/
def resetEntry (code : EventCode) (s : State) : State :=
  { s with
    ph := dispatchPhase
    lines := Vector.replicate 13 .off
    cause := code
    wtInt := 0
    wtCnt := 0 }

/-- The retained group after the n-th POWER_ON: a draw of each element (R39, log 4). -/
def drawnRetained (n : Nat) : Retained where
  buf := Vector.ofFn (Config.drawCell n)
  fc := Config.drawFc n
  rc := Config.drawRc n
  cur := Config.drawCur n
  wb := Config.drawWb n
  nb := Config.drawNb n

end Machine
end Sys2Proof
end

