-- ==== Sys2Proof/Machine/Controller.lean ====
section
/-! DEFINITION. The PowerCycleController's steps (spec/42_controller.md), the model's stuck state
and the reserved phases (spec/60_exceptions.md R151, spec/30_encoding.md R78). -/

namespace Sys2Proof.Machine

/-- DISPATCH (R132): the warm path for a periodic wake, the cold path for every other cause. -/
def execDispatch (s : State) : Host.Outcome State Fault Refusal :=
  match resetCause s.cause with
  | .periodicWake => .next (setPhase (armTimerPhase 1) s)
  | .coldBoot => .next (setPhase coldInitPhase s)

/-- COLD_INIT (R133): every retained element becomes 0. -/
def execColdInit (s : State) : Host.Outcome State Fault Refusal :=
  .next (setPhase (armTimerPhase 0) { s with ret := Retained.zero })

/-- ARM_TIMER(p) (R134): the steady interval, the count restarted; then SLEEP on the cold path (0)
and the scan on the warm path (1). -/
def execArmTimer (p : BitVec 1) (s : State) : Host.Outcome State Fault Refusal :=
  .next (setPhase (if p = 0 then sleepPhase else scanCellPhase 0) { s with wtInt := 1, wtCnt := 0 })

/-- SLEEP (R135): "State written: none". Time passes in it, which `step` charges; it is left only
by a reset event. -/
def execSleep (s : State) : Host.Outcome State Fault Refusal := .next s

/-- FAULT (R151): the state is stuck; no step or event is enabled in it. -/
def execFault (s : State) : Host.Outcome State Fault Refusal := .fault (.stuck s.fault)

/-- A reserved value of PH: step selection raises ILLEGAL_PHASE (R78). -/
def execIllegal (_ph : Phase) (s : State) : Host.Outcome State Fault Refusal :=
  .next (raiseFault .illegalPhase s)

end Sys2Proof.Machine
end

