-- ==== Sys2Proof/Machine/Decoder.lean ====
section
/-! DEFINITION. The FrameDecoder (spec/40_decoder.md): the tokens KEEP and SET and the steps
DECODE_BEGIN and DECODE_TOKEN. -/

namespace Sys2Proof.Machine

/-- KEEP (R92): consume the token's one bit and leave `BUF[s]` as it is. The slot is that of the
enclosing DECODE_TOKEN step, which alone writes PH (log 15). -/
def execKeep (s : State) : Host.Outcome State Fault Refusal :=
  match currentSlot s with
  | none => .next (raiseFault .illegalPhase s)
  | some slot =>
    match nextBit s.cfg s.ret with
    | none => .next (raiseFault .streamOverrun s)
    | some (_, r) => .next { s with ret := applyToken s.cfg slot .keep r }

/-- SET (R93): consume the token's six bits and write `BUF[s] <- DUTY_TABLE[L]`. -/
def execSet (l : Level) (s : State) : Host.Outcome State Fault Refusal :=
  match currentSlot s with
  | none => .next (raiseFault .illegalPhase s)
  | some slot =>
    match nextBits s.cfg 6 0 s.ret with
    | none => .next (raiseFault .streamOverrun s)
    | some (_, r) => .next { s with ret := applyToken s.cfg slot (.set l) r }

/-- DECODE_BEGIN (R94): compare, reset the loop, then count. -/
def execDecodeBegin (s : State) : Host.Outcome State Fault Refusal :=
  let r := if loopEnds s then rewind s.ret else s.ret
  .next (setPhase (decodeTokenPhase 39) { s with ret := { r with fc := r.fc + 1 } })

/-- The phase after the token of a slot: the next lower slot, or SLEEP after slot 0 (R95). -/
def phaseAfterToken (slot : PhaseIndex) : Phase :=
  if slot = 0 then sleepPhase else decodeTokenPhase (slot - 1)

/-- DECODE_TOKEN(s) (R95): read the token, execute it at the slot, go on. A fault discards all the
step read (R151). A slot of 40..63 is a reserved phase (R78, log 16). -/
def execDecodeToken (slot : PhaseIndex) (s : State) : Host.Outcome State Fault Refusal :=
  match cellOperand slot with
  | none => .next (raiseFault .illegalPhase s)
  | some i =>
    match fetchToken s.cfg s.ret with
    | none => .next (raiseFault .streamOverrun s)
    | some (t, r) =>
      .next (setPhase (phaseAfterToken slot) { s with ret := applyToken s.cfg i t r })

end Sys2Proof.Machine
end

