-- ==== Sys2Proof/Machine/Events.lean ====
section
/-! DEFINITION. The events (spec/42_controller.md R131, R136 and R137). When each is enabled is step
selection's matter (R140, Machine/Timer.lean); here is what each does (log 18). -/

namespace Sys2Proof.Machine

/-- POWER_ON (R131): the retained group is a draw, the run's records begin, and RESET(0). -/
def execPowerOn (s : State) : Host.Outcome State Fault Refusal :=
  .next (resetEntry 0
    { s with
      ret := drawnRetained s.draws
      fault := none
      trace := []
      started := true
      draws := s.draws + 1
      time := 0 })

/-- TIMEOUT (R136): the periodic wake from SLEEP; anywhere else the fault WAKE_OVERRUN. -/
def execTimeout (s : State) : Host.Outcome State Fault Refusal :=
  if s.ph = sleepPhase then .next (resetEntry 1 s) else .next (raiseFault .wakeOverrun s)

/-- EXTERNAL_RESET (R137). -/
def execExternalReset (s : State) : Host.Outcome State Fault Refusal := .next (resetEntry 2 s)

/-- OTHER_RESET (R137). -/
def execOtherReset (s : State) : Host.Outcome State Fault Refusal := .next (resetEntry 3 s)

end Sys2Proof.Machine
end

