-- ==== Sys2Proof/Machine/Scanner.lean ====
section
/-! DEFINITION. The DisplayScanner's steps SCAN_CELL and SCAN_END (spec/41_scanner.md). -/

namespace Sys2Proof.Machine

/-- The phase after scan position k: the next position, or SCAN_END after position 39 (R115). -/
def phaseAfterCell (k : PhaseIndex) : Phase :=
  if k = 39 then scanEndPhase else scanCellPhase (k + 1)

/-- SCAN_CELL(k) (R115): one pulse for the cell at scan position k, none where its duty is 0. A
position of 40..63 is a reserved phase (R78, log 16). -/
def execScanCell (k : PhaseIndex) (s : State) : Host.Outcome State Fault Refusal :=
  match cellOperand k with
  | none => .next (raiseFault .illegalPhase s)
  | some pos =>
    let i := s.cfg.scanOrder[pos]
    let d := readCell s.ret i
    .next (setPhase (phaseAfterCell k) (if d = 0 then s else drivePulse pos i d s))

/-- SCAN_END (R116): count the refresh; the REFRESH_PER_FRAME-th one starts a decode. -/
def execScanEnd (s : State) : Host.Outcome State Fault Refusal :=
  if decodeDue s then
    .next (setPhase decodeBeginPhase { s with ret := { s.ret with rc := 0 } })
  else
    .next (setPhase sleepPhase { s with ret := { s.ret with rc := nextRefreshCount s } })

end Sys2Proof.Machine
end

