-- ==== Sys2Proof/Machine/Dispatch.lean ====
section
/-! DEFINITION. One arm for each instruction of the opcode table. -/

namespace Sys2Proof.Machine

def exec (i : Instr) (s : State) : Host.Outcome State Fault Refusal :=
  match i with
  | .keep => Sys2Proof.Machine.execKeep s
  | .set level => Sys2Proof.Machine.execSet level s
  | .dispatch => Sys2Proof.Machine.execDispatch s
  | .coldInit => Sys2Proof.Machine.execColdInit s
  | .armTimer p => Sys2Proof.Machine.execArmTimer p s
  | .scanCell k => Sys2Proof.Machine.execScanCell k s
  | .scanEnd => Sys2Proof.Machine.execScanEnd s
  | .decodeBegin => Sys2Proof.Machine.execDecodeBegin s
  | .decodeToken slot => Sys2Proof.Machine.execDecodeToken slot s
  | .sleep => Sys2Proof.Machine.execSleep s
  | .fault => Sys2Proof.Machine.execFault s
  | .illegal ph => Sys2Proof.Machine.execIllegal ph s
  | .powerOn => Sys2Proof.Machine.execPowerOn s
  | .timeout => Sys2Proof.Machine.execTimeout s
  | .externalReset => Sys2Proof.Machine.execExternalReset s
  | .otherReset => Sys2Proof.Machine.execOtherReset s

end Sys2Proof.Machine
end

