-- ==== Sys2Proof/Machine/Legal.lean ====
section
/-! DEFINITION. Which configurations the model runs (spec/60_exceptions.md R152): the constraints
of spec/41_scanner.md R110 to R112, the ranges of spec/00_scope.md R8 and the intervals of
spec/60_exceptions.md R160. -/

namespace Sys2Proof.Machine

/-- No number stands twice in the list, nor among those `seen`, which holds the bit 2^n for each
number n seen so far (a set of lines is such a mask in R34). -/
def noRepeatsAfter (seen : Nat) : List Nat → Bool
  | [] => true
  | n :: ns => !seen.testBit n && noRepeatsAfter (seen ||| 2 ^ n) ns

/-- No number stands twice in the list. -/
def noRepeats (ns : List Nat) : Bool := noRepeatsAfter 0 ns

/-- The bytes never fall. -/
def neverFalls : List Byte → Bool
  | a :: b :: bs => decide (a.toNat ≤ b.toNat) && neverFalls (b :: bs)
  | _ => true

/-- DUTY_TABLE[0] = 0, DUTY_TABLE[31] = 255, and the entries never fall (R110). -/
def dutyTableLegal (c : Config) : Bool :=
  c.dutyTable[0] == 0 && c.dutyTable[31] == 255 && neverFalls c.dutyTable.toList

/-- The 13 line indices of the rows and columns, rows first. -/
def allLines (c : Config) : List Nat :=
  c.rowLine.toList.map Fin.val ++ c.colLine.toList.map Fin.val

/-- The row and column lines are together a permutation of the 13 lines: 13 indices of 0..12, none
of them twice (R111). -/
def wiringLegal (c : Config) : Bool := noRepeats (allLines c)

/-- SCAN_ORDER is a permutation of 0..39 (R111). -/
def scanOrderLegal (c : Config) : Bool := noRepeats (c.scanOrder.toList.map Fin.val)

/-- The constraints on the pulse timing constants (R112). -/
def pulseTimingLegal (c : Config) : Bool :=
  decide (1 ≤ c.pulseMin) && decide (1 ≤ c.pulseSlope) &&
    decide (c.pulseMin ≤ c.pulseBase + 2 * c.pulseSlope)

/-- FRAMECOUNT, REFRESH_PER_FRAME and STREAM_LEN are not 0 (R152), REFRESH_RATE and CLK_HZ are
positive (R8, log 14). -/
def rangesLegal (c : Config) : Bool :=
  c.frameCount != 0 && c.refreshPerFrame != 0 && c.streamLen != 0 &&
    c.refreshRate != 0 && c.clkHz != 0

/-- 0 < DEFAULT_INTERVAL < STEADY_INTERVAL (R152, R160). -/
def intervalsLegal (c : Config) : Bool :=
  decide (0 < c.defaultInterval) && decide (c.defaultInterval < c.steadyInterval)

/-- The configuration meets every constraint of R152. -/
def legal (c : Config) : Bool :=
  dutyTableLegal c && wiringLegal c && scanOrderLegal c && pulseTimingLegal c &&
    rangesLegal c && intervalsLegal c

end Sys2Proof.Machine
end

