-- ==== Sys2Proof/Machine/Timer.lean ====
section
/-! DEFINITION. The wake timer, the step costs and step selection in the timed model
(spec/60_exceptions.md R155, R156 and R160, spec/42_controller.md R140,
spec/70_reset_and_hazards.md R191), the selection of the untimed model (R161), and how a word is
placed where the machine selects its next instruction. -/

namespace Sys2Proof.Machine

/-- INTERVAL: DEFAULT_INTERVAL if WT_INT = 0, STEADY_INTERVAL if WT_INT = 1 (R160). -/
def interval (s : State) : Nat :=
  if s.wtInt = 0 then s.cfg.defaultInterval else s.cfg.steadyInterval

/-- The cycles that pass in SLEEP before the next boundary: up to the timeout, or fewer where the
environment's schedule sets a boundary sooner (R160, log 9). -/
def waitCycles (s : State) : Nat :=
  match s.env with
  | [] => interval s - s.wtCnt
  | e :: _ => min (interval s - s.wtCnt) e.wait

/-- The cost of SCAN_CELL(k): a skipped cell, or a pulse and its hold T(d) (R191). -/
def scanCellCost (k : PhaseIndex) (s : State) : Nat :=
  match cellOperand k with
  | none => 0
  | some pos =>
    let d := readCell s.ret s.cfg.scanOrder[pos]
    if d = 0 then s.cfg.cCellSkip else s.cfg.cCellPulse + onTime s.cfg d

/-- The cost of DECODE_TOKEN: its token's, and that of each refill its bits need (R191). A step
that overruns the stream after reading n bits costs the model's own parameter (log 11): it reads
what is left in WB, so n is NB. -/
def decodeTokenCost (s : State) : Nat :=
  match fetchToken s.cfg s.ret with
  | none => s.cfg.cTokenOverrun[min s.ret.nb.toNat 5]
  | some (t, r) =>
    (match t with
      | .keep => s.cfg.cTokenKeep
      | .set _ => s.cfg.cTokenSet) + (r.cur.toNat - s.ret.cur.toNat) * s.cfg.cRefill

/-- The clock cycles an instruction takes (R191). KEEP and SET are charged to their DECODE_TOKEN
step; a step that is not taken takes none. -/
def stepCost (i : Instr) (s : State) : Nat :=
  match i with
  | .keep => 0
  | .set _ => 0
  | .dispatch => s.cfg.cDispatch
  | .coldInit => s.cfg.cColdInit
  | .armTimer _ => s.cfg.cArm
  | .scanCell k => scanCellCost k s
  | .scanEnd => s.cfg.cScanEnd
  | .decodeBegin => if loopEnds s then s.cfg.cDecodeBeginReset else s.cfg.cDecodeBegin
  | .decodeToken _ => decodeTokenCost s
  | .sleep => waitCycles s
  | .fault => 0
  | .illegal _ => 0
  | .powerOn => s.cfg.cReset
  | .timeout => s.cfg.cReset
  | .externalReset => s.cfg.cReset
  | .otherReset => s.cfg.cReset

/-- The steps that write WT_CNT and leave it at 0 at their end (R160). -/
def writesCount : Instr → Bool
  | .keep => false
  | .set _ => false
  | .dispatch => false
  | .coldInit => false
  | .armTimer _ => true
  | .scanCell _ => false
  | .scanEnd => false
  | .decodeBegin => false
  | .decodeToken _ => false
  | .sleep => false
  | .fault => false
  | .illegal _ => false
  | .powerOn => true
  | .timeout => true
  | .externalReset => true
  | .otherReset => true

/-- Whether the timer expires before the instruction PH selects (R160): within a step of cost c
where WT_CNT + c ≥ INTERVAL, and in SLEEP where the interval has elapsed (log 10). A reserved PH is
reported before the timer is looked at (R156). -/
def timerExpires (i : Instr) (s : State) : Bool :=
  match i with
  | .illegal _ => false
  | .sleep => decide (interval s ≤ s.wtCnt)
  | _ => decide (interval s ≤ s.wtCnt + stepCost i s)

/-- The reset the environment asserts at this boundary: EXTERNAL_RESET before OTHER_RESET (R155). -/
def arrivingReset (s : State) : Option Instr :=
  match s.env with
  | [] => none
  | e :: _ =>
    if e.externalReset then some .externalReset
    else if e.otherReset then some .otherReset
    else none

/-- The transition taken at this boundary (R140, R155, R156): POWER_ON at the start of a run,
nothing but FAULT in a faulted state, an environment reset where one arrives, TIMEOUT where the
timer expires, and otherwise the step that PH selects. -/
def select (s : State) : Instr :=
  if s.started = false then .powerOn
  else if s.ph = faultPhase then .fault
  else
    match arrivingReset s with
    | some i => i
    | none => if timerExpires (decodePhase s.ph) s then .timeout else decodePhase s.ph

/-- What a boundary adds to the instruction's own effect: the environment's input is consumed, and
the cycles the instruction took pass (R160). Raising a fault "makes no other write" (R151), so a
faulted state's clock stands. -/
def settle (i : Instr) (s t : State) : State :=
  { t with
    env := s.env.tail
    time := if t.ph = faultPhase then t.time else t.time + stepCost i s
    wtCnt :=
      if t.ph = faultPhase then t.wtCnt
      else if writesCount i then t.wtCnt
      else t.wtCnt + stepCost i s }

/-- The untimed model's transition (R161): no step overruns the timer, and SLEEP takes TIMEOUT. -/
def untimedSelect (s : State) : Instr :=
  if s.started = false then .powerOn
  else if s.ph = faultPhase then .fault
  else
    match arrivingReset s with
    | some i => i
    | none => if decodePhase s.ph = .sleep then .timeout else decodePhase s.ph

/-- The state without time, as the untimed model has it (R161). -/
def eraseTime (s : State) : State := { s with wtCnt := 0, time := 0 }

/-! ### Placing a word for the next step (log 17) -/

/-- A boundary at which the sequencer may step: the run has begun, no environment reset arrives and
the timer has just been started. -/
def quietBoundary (s : State) : State := { s with started := true, env := [], wtCnt := 0 }

/-- Set PH, the block's program counter, to a value. -/
def placePhase (w : Nat) (s : State) : State :=
  { quietBoundary s with ph := BitVec.ofNat 10 w }

/-- Make an event arrive: power not yet applied, a wait whose interval has elapsed, or a reset in
the environment's schedule. -/
def placeEvent (w : Nat) (s : State) : State :=
  match w with
  | 0 => { s with started := false }
  | 1 => { s with started := true, env := [], ph := sleepPhase, wtCnt := interval s }
  | n + 2 =>
    { s with
      started := true
      env := [{ externalReset := n == 0, otherReset := n != 0, wait := 0 }]
      ph := if s.ph = faultPhase then dispatchPhase else s.ph }

/-- Load a byte of token bits as the stream's first byte, the reader rewound to it, at the first
slot of a frame. -/
def placeToken (w : Nat) (s : State) : State :=
  { quietBoundary s with
    cfg := { s.cfg with stream := s.cfg.stream.write 0 (BitVec.ofNat 8 w) }
    ret := { s.ret with cur := 0, wb := 0, nb := 0 }
    ph := decodeTokenPhase 39 }

/-- Place the instruction of a table word where the next step selects it. -/
def placeWord (nbits w : Nat) (s : State) : State :=
  if nbits ≤ 8 then (if w < 4 then placeEvent w s else placeToken w s) else placePhase w s

end Sys2Proof.Machine
end

