-- ==== Sys2Proof/Machine/Step.lean ====
section
/-! DEFINITION. One step of the block: the timed model of spec/60_exceptions.md R160, and beside it
the untimed model of R161 (log 9, log 19). -/

namespace Sys2Proof.Machine

/-- One transition (R140) of a block whose configuration is legal; a model "gives no run at all" to
any other (R152). -/
def step (s : State) : Host.Outcome State Fault Refusal :=
  if legal s.cfg then
    match exec (select s) s with
    | .next t => .next (settle (select s) s t)
    | .fault f => .fault f
    | .refused r => .refused r
  else .refused .illegalConfiguration

/-- One transition of the untimed model (R161). -/
def untimedStep (s : State) : Host.Outcome State Fault Refusal :=
  if legal s.cfg then
    match exec (untimedSelect s) s with
    | .next t => .next (eraseTime { t with env := s.env.tail })
    | .fault f => .fault f
    | .refused r => .refused r
  else .refused .illegalConfiguration

/-- The state whose next step runs the instruction of a table word (log 17). -/
def State.withFetchWord (s : State) (nbits w : Nat) : State := placeWord nbits w s

end Sys2Proof.Machine
end

