-- ==== Sys2Proof/Machine/Asset.lean ====
section
/-! DEFINITION. The bitstream as a sequence of bits and frames: bit n of the stream
(spec/20_memory.md R53), the tokens and frames laid end to end (spec/30_encoding.md R73), when an
asset is well formed (R74), and where the bit reader stands in it (spec/40_decoder.md R97). No step
reads these: they are what claims about the decoder are stated in. -/

namespace Sys2Proof.Machine

/-- Bit n of the stream is `STREAM[n >> 3][n & 7]` (R53). -/
def streamBit (c : Config) (n : Nat) : Bool := (c.stream.read (n / 8)).getLsbD (n % 8)

/-- How many bits the stream ROM holds. -/
def streamBits (c : Config) : Nat := 8 * c.streamLen.toNat

/-- The length of the token at bit p, where the ROM holds all of it (R70, R72). -/
def tokenLengthAt (c : Config) (p : Nat) : Option Nat :=
  if p < streamBits c then
    if streamBit c p then (if p + 6 ≤ streamBits c then some 6 else none) else some 1
  else none

/-- The bit after n tokens that begin at bit p (R73). -/
def tokensEnd (c : Config) : Nat → Nat → Option Nat
  | 0, p => some p
  | n + 1, p =>
    match tokenLengthAt c p with
    | none => none
    | some len => tokensEnd c n (p + len)

/-- The bit at which frame j begins, LEN(0) + ... + LEN(j-1) (R73, R97). -/
def frameStart (c : Config) (j : Nat) : Option Nat := tokensEnd c (40 * j) 0

/-- The asset is well formed: FRAMECOUNT ≥ 1 frames parse within the ROM (R74). -/
def assetWellFormed (c : Config) : Bool :=
  c.frameCount != 0 && (frameStart c c.frameCount.toNat).isSome

/-- The bits the reader has still to consume: the NB low bits of WB, then the bytes from CUR to the
end of the ROM, each from bit 0 up (R27, R53). -/
def pendingBits (c : Config) (r : Retained) : List Bool :=
  (List.range r.nb.toNat).map r.wb.getLsbD ++
    (List.range (8 * (c.streamLen.toNat - r.cur.toNat))).map
      (fun n => streamBit c (8 * r.cur.toNat + n))

end Sys2Proof.Machine
end

