-- ==== Sys2Proof/Safety.lean ====
section
/-! DEFINITION. What claims are stated in: the state invariants of the spec, the timing budget, the
decoder's position in the asset, sequences of instructions, and a run and its observation. -/

namespace Sys2Proof.Machine

/-! ### Sequences of instructions -/

/-- Execute instructions in order. It stops, as the block does, in a faulted state (R151) and where
an instruction gives no next state. -/
def execAll : List Instr → State → Host.Outcome State Fault Refusal
  | [], s => .next s
  | i :: is, s =>
    match exec i s with
    | .next t => if t.ph = faultPhase then .fault (.stuck t.fault) else execAll is t
    | .fault f => .fault f
    | .refused r => .refused r

/-- DECODE_TOKEN(39) down to DECODE_TOKEN(0): the token steps of one frame (R96). -/
def frameTokenSteps : List Instr :=
  (List.range 40).map fun n => .decodeToken (BitVec.ofNat 6 (39 - n))

/-- The step sequence of `decodeNext()` (R96). -/
def decodeNextSteps : List Instr := .decodeBegin :: frameTokenSteps

/-- `decodeNext()` called n times (R96, R98). -/
def decodeCalls : Nat → State → Host.Outcome State Fault Refusal
  | 0, s => .next s
  | n + 1, s =>
    match execAll decodeNextSteps s with
    | .next t => decodeCalls n t
    | .fault f => .fault f
    | .refused r => .refused r

/-- SCAN_CELL(0) to SCAN_CELL(39): the cell steps of `refresh()` (R117). -/
def scanCellSteps : List Instr := (List.range 40).map fun n => .scanCell (BitVec.ofNat 6 n)

/-- `refresh()` without the decode it may start: the 41 steps SCAN_CELL(0) to SCAN_CELL(39) and
SCAN_END (R117). -/
def refreshSteps : List Instr := scanCellSteps ++ [.scanEnd]

/-- `refresh()` (R117): its 41 steps, and `decodeNext()` where SCAN_END starts it. -/
def refresh (s : State) : Host.Outcome State Fault Refusal :=
  match execAll refreshSteps s with
  | .next t => if t.ph = decodeBeginPhase then execAll decodeNextSteps t else .next t
  | .fault f => .fault f
  | .refused r => .refused r

/-- An operation n times over, as long as it completes. -/
def repeatOp (op : State → Host.Outcome State Fault Refusal) :
    Nat → State → Host.Outcome State Fault Refusal
  | 0, s => .next s
  | n + 1, s =>
    match op s with
    | .next t => repeatOp op n t
    | .fault f => .fault f
    | .refused r => .refused r

/-- `refresh()` n times (R120). -/
def refreshes (n : Nat) (s : State) : Host.Outcome State Fault Refusal := repeatOp refresh n s

/-! ### A run and its observation (R141) -/

/-- The start of a run: the configuration is one that is run at all (R152) and power is yet to be
applied, so that the first event is POWER_ON (R141, log 7). -/
def runStarts (s : State) : Prop := legal s.cfg = true ∧ s.started = false

/-- The boundary after a step from `s` to `t` is an observation point: "PH has just been set to
SLEEP" (R141). A step of a block that sleeps on sets no PH (log 9). -/
def observationPoint (s t : State) : Bool := s.ph != sleepPhase && t.ph == sleepPhase

/-- What a run shows (R141). -/
structure Observation where
  /-- The retained states at the observation points, the first one first. -/
  retained : List Retained
  /-- TRACE. -/
  trace : List Pulse
  /-- FAULT. -/
  fault : Option FaultKind
  deriving DecidableEq, Repr

/-- The observation of the first n steps from a state. From a state that starts a run it is that of
a prefix of the run (R141, R166). A run that is stuck after fewer steps shows no more. -/
def observeRun : Nat → State → Observation
  | 0, s => { retained := [], trace := s.trace, fault := s.fault }
  | n + 1, s =>
    match step s with
    | .next t =>
      let rest := observeRun n t
      if observationPoint s t then { rest with retained := t.ret :: rest.retained } else rest
    | .fault _ => { retained := [], trace := s.trace, fault := s.fault }
    | .refused _ => { retained := [], trace := s.trace, fault := s.fault }

/-! ### The state's invariants (R40, R182) -/

/-- Every line is OFF, as between any two steps (R118). -/
def linesOff (s : State) : Prop := ∀ l : Fin 13, s.lines[l] = .off

/-- The ranges of the retained group (R40). -/
def retainedInRange (c : Config) (r : Retained) : Prop :=
  r.rc.toNat < c.refreshPerFrame.toNat ∧
  r.fc.toNat ≤ c.frameCount.toNat ∧
  r.nb.toNat ≤ 8 ∧
  r.wb.toNat < 2 ^ r.nb.toNat ∧
  r.cur.toNat ≤ c.streamLen.toNat ∧
  ∀ i : Fin 40, r.buf[i] = 0 ∨ ∃ b : Fin 32, r.buf[i] = c.dutyTable[b]

/-- The retained group may still be the power-on draw: the cold path has not yet zeroed it, or the
run has faulted (R39, R182). -/
def retainedUnread (s : State) : Prop :=
  s.ph = faultPhase ∨ s.ph = coldInitPhase ∨ (s.ph = dispatchPhase ∧ s.cause ≠ 1)

/-- The invariant of R40: PH is a defined value, every line is OFF, and the retained group is in
range from the first COLD_INIT on, hence at every warm DISPATCH (R182). -/
def RunInv (s : State) : Prop :=
  phaseDefined s.ph = true ∧ linesOff s ∧ (retainedUnread s ∨ retainedInRange s.cfg s.ret)

/-! ### The timing budget (R185) -/

/-- The longest time the scan of one cell takes. -/
def cellTime (c : Config) : Nat := c.cCellPulse + onTime c 255

/-- TIMING_BUDGET_OK (R185), clauses (a) to (d). -/
def TimingBudgetOk (c : Config) : Prop :=
  c.cDispatch + c.cColdInit + c.cArm < c.defaultInterval ∧
  c.cDispatch + c.cArm < c.defaultInterval ∧
  40 * cellTime c + c.cScanEnd + c.cDecodeBeginReset + 40 * c.cTokenSet + 30 * c.cRefill <
    c.steadyInterval ∧
  c.cCellSkip ≤ cellTime c ∧
  c.cTokenKeep ≤ c.cTokenSet ∧
  c.cDecodeBegin ≤ c.cDecodeBeginReset

/-- THE MODEL'S OWN clause beside the budget (log 11): a DECODE_TOKEN step cut short by
STREAM_OVERRUN takes no longer than a whole SET token. -/
def OverrunWithinBudget (c : Config) : Prop := ∀ n : Fin 6, c.cTokenOverrun[n] ≤ c.cTokenSet

/-- Where WT_CNT stands at each phase of a run within the budget: the steps taken since the timer
was last started, each at its longest. -/
def BudgetInv (s : State) : Prop :=
  match decodePhase s.ph with
  | .dispatch => s.wtInt = 0 ∧ s.wtCnt = 0
  | .coldInit => s.wtInt = 0 ∧ s.wtCnt ≤ s.cfg.cDispatch
  | .armTimer p =>
    s.wtInt = 0 ∧ s.wtCnt ≤ s.cfg.cDispatch + (if p = 0 then s.cfg.cColdInit else 0)
  | .scanCell k => s.wtInt = 1 ∧ s.wtCnt ≤ k.toNat * cellTime s.cfg
  | .scanEnd => s.wtInt = 1 ∧ s.wtCnt ≤ 40 * cellTime s.cfg
  | .decodeBegin =>
    s.wtInt = 1 ∧ s.wtCnt ≤ 40 * cellTime s.cfg + s.cfg.cScanEnd
  | .decodeToken slot =>
    s.wtInt = 1 ∧
    ∃ refills : Nat, 8 * refills ≤ 6 * (39 - slot.toNat) + s.ret.nb.toNat ∧
      s.wtCnt ≤ 40 * cellTime s.cfg + s.cfg.cScanEnd + s.cfg.cDecodeBeginReset +
        (39 - slot.toNat) * s.cfg.cTokenSet + refills * s.cfg.cRefill
  | .sleep => s.wtInt = 1
  | _ => True

/-! ### The decoder's position in the asset (R97) -/

/-- The reader has consumed exactly the stream's first p bits, P = 8·CUR − NB, and WB holds the
next NB of them (R97, R27). -/
def readerAt (c : Config) (r : Retained) (p : Nat) : Prop :=
  r.nb.toNat ≤ 8 ∧ p + r.nb.toNat = 8 * r.cur.toNat ∧ r.cur.toNat ≤ c.streamLen.toNat ∧
  ∀ j : Nat, j < r.nb.toNat → r.wb.getLsbD j = streamBit c (p + j)

/-- How many tokens have been decoded since the last rewind: all of FC frames, less the slots the
present frame still has to do. -/
def tokensDone (s : State) : Nat :=
  match decodePhase s.ph with
  | .decodeToken slot => 40 * s.ret.fc.toNat - (slot.toNat + 1)
  | _ => 40 * s.ret.fc.toNat

/-- The reader stands where the tokens decoded so far end (R97), from the first COLD_INIT on. -/
def PositionInv (s : State) : Prop :=
  retainedUnread s ∨
    (s.ret.fc.toNat ≤ s.cfg.frameCount.toNat ∧
      (∀ slot, decodePhase s.ph = .decodeToken slot → 1 ≤ s.ret.fc.toNat) ∧
      ∃ p, tokensEnd s.cfg (tokensDone s) 0 = some p ∧ readerAt s.cfg s.ret p)

end Sys2Proof.Machine
end

