-- ==== Sys2Proof/Certificates/Slice0/Obligations.lean ====
section
/-! DEFINITION. The statements for the provers. Each docstring names the rules of spec/ it
formalises. Phase values are written as the numbers of spec/30_encoding.md R77. A statement's
hypotheses are about states and operands alone; Tests/Slice0.lean has a witness for each. -/

open Sys2Proof Sys2Proof.Machine

/-! ### Encodings -/

/-- R70, R77, R79: decoding the encoding of a term of the opcode table gives it back, whatever its
operands. -/
def Obligations.DecodeOfEncodeGivesInstruction : Prop :=
  ∀ i : Instr, i.wf = true → decode (encode i) = .ok i

/-- R77, R78: every value of PH decodes to exactly the term of the table whose word it is. -/
def Obligations.EveryPhaseValueIsOneTableWord : Prop :=
  ∀ ph : Phase, encode (decodePhase ph) = .phase ph ∧ (decodePhase ph).wf = true

/-- R70, R77, R79: a word of every row of the opcode table, in its opcode space, decodes to that
row's instruction. -/
def Obligations.TableWordsDecodeAsListed : Prop :=
  decode (.phase 0x040) = .ok .dispatch ∧
  decode (.phase 0x080) = .ok .coldInit ∧
  decode (.phase 0x0C0) = .ok (.armTimer 0) ∧
  decode (.phase 0x0C1) = .ok (.armTimer 1) ∧
  decode (.phase 0x127) = .ok (.scanCell 39) ∧
  decode (.phase 0x128) = .ok (.illegal 0x128) ∧
  decode (.phase 0x140) = .ok .scanEnd ∧
  decode (.phase 0x180) = .ok .decodeBegin ∧
  decode (.phase 0x1E7) = .ok (.decodeToken 39) ∧
  decode (.phase 0x200) = .ok .sleep ∧
  decode (.phase 0x3C0) = .ok .fault ∧
  decode (.event 0) = .ok .powerOn ∧
  decode (.event 1) = .ok .timeout ∧
  decode (.event 2) = .ok .externalReset ∧
  decode (.event 3) = .ok .otherReset ∧
  decode (.token [false]) = .ok .keep ∧
  decode (.token [true, true, false, true, false, false]) = .ok (.set 20)

/-- R71: a level is 16·b1 + 8·b2 + 4·b3 + 2·b4 + b5, the first bit consumed the most
significant. -/
def Obligations.LevelIsAssembledMostSignificantFirst : Prop :=
  ∀ b1 b2 b3 b4 b5 : Bool,
    (levelOfBits b1 b2 b3 b4 b5).toNat =
      16 * b1.toNat + 8 * b2.toNat + 4 * b3.toNat + 2 * b4.toNat + b5.toNat

/-- R72: the first token of a bit string is found without looking past it. -/
def Obligations.TokenIsReadOffItsOwnBits : Prop :=
  ∀ (t : Token) (rest : List Bool), decodeToken (tokenBits t ++ rest) = .ok (t, rest)

/-- R73: a frame of 40 tokens with s SET tokens is 40 + 5·s bits long. -/
def Obligations.FrameLengthCountsItsSetTokens : Prop :=
  ∀ ts : List Token, ts.length = 40 →
    (streamOfTokens ts).length = 40 + 5 * (ts.filter fun t => t != .keep).length

/-- R74: an asset is malformed only by being too short; a ROM with room for FRAMECOUNT frames of
240 bits is well formed whatever its bytes. -/
def Obligations.RoomyAssetIsWellFormed : Prop :=
  ∀ c : Config, c.frameCount ≠ 0 → 240 * c.frameCount.toNat ≤ 8 * c.streamLen.toNat →
    assetWellFormed c = true

/-- R80, R81, R151: the codes of line states and faults, and the binary reading of CAUSE. -/
def Obligations.CodesAreAsListed : Prop :=
  (lineCode .off = 0 ∧ lineCode .high = 1 ∧ lineCode .low = 2) ∧
  (faultCode .streamOverrun = 1 ∧ faultCode .wakeOverrun = 2 ∧ faultCode .illegalPhase = 3) ∧
  ∀ c : EventCode, resetCause c = .periodicWake ↔ c = 1

/-! ### The bit reader -/

/-- R90, R53: NEXT_BIT hands out the pending bits in stream order, one at a time, and overruns
exactly when none is left: where NB = 0 at CUR ≥ STREAM_LEN. It loads the byte at CUR where NB = 0
and only there, so NB = 1 leaves NB = 0 and WB shifted with nothing loaded. P = 8·CUR − NB grows by
one. -/
def Obligations.NextBitTakesTheNextPendingBit : Prop :=
  ∀ (c : Config) (r : Retained),
    (pendingBits c r = [] → nextBit c r = none) ∧
    (nextBit c r = none ↔ r.nb = 0 ∧ c.streamLen.toNat ≤ r.cur.toNat) ∧
    ∀ b rest, pendingBits c r = b :: rest →
      ∃ r', nextBit c r = some (b, r') ∧ pendingBits c r' = rest ∧
        8 * r'.cur.toNat + r.nb.toNat = 8 * r.cur.toNat + r'.nb.toNat + 1 ∧
        r'.buf = r.buf ∧ r'.fc = r.fc ∧ r'.rc = r.rc ∧
        (r.nb = 0 →
          r'.cur = r.cur + 1 ∧ r'.wb = c.stream.read r.cur.toNat >>> 1 ∧ r'.nb = 7) ∧
        (r.nb ≠ 0 → r'.cur = r.cur ∧ r'.wb = r.wb >>> 1 ∧ r'.nb = r.nb - 1)

/-- R91: NEXT_BITS(n) reads n pending bits, the first the most significant, wherever the byte
boundaries fall; with fewer pending it overruns. -/
def Obligations.NextBitsReadsMostSignificantFirst : Prop :=
  ∀ (c : Config) (r : Retained) (bs rest : List Bool),
    (pendingBits c r = bs ++ rest →
      ∃ r', nextBits c bs.length 0 r = some (bs.foldl (fun v b => 2 * v + b.toNat) 0, r') ∧
        pendingBits c r' = rest ∧
        8 * r'.cur.toNat + r.nb.toNat = 8 * r.cur.toNat + r'.nb.toNat + bs.length) ∧
    (∀ n, (pendingBits c r).length < n → nextBits c n 0 r = none)

/-! ### Tokens and decode steps -/

/-- R92, in the form of log 15 (the model's own): at the slot of PH, KEEP consumes its one bit and
writes nothing else; without a bit it overruns and the step writes FAULT and PH only. -/
def Obligations.KeepConsumesItsBitOnly : Prop :=
  ∀ (s : State) (slot : Fin 40), s.ph = BitVec.ofNat 10 (0x1C0 + slot.val) →
    (∀ b rest, pendingBits s.cfg s.ret = b :: rest →
      ∃ r, exec .keep s = .next { s with ret := r } ∧
        r.buf = s.ret.buf ∧ r.fc = s.ret.fc ∧ r.rc = s.ret.rc ∧
        8 * r.cur.toNat + s.ret.nb.toNat = 8 * s.ret.cur.toNat + r.nb.toNat + 1 ∧
        pendingBits s.cfg r = rest) ∧
    (pendingBits s.cfg s.ret = [] →
      exec .keep s = .next { s with fault := some .streamOverrun, ph := 0x3C0 })

/-- R93, in the form of log 15 (the model's own): at the slot of PH, SET consumes its six bits and
writes the duty of its level to its slot's cell alone; without six bits it overruns and the step
writes FAULT and PH only. -/
def Obligations.SetWritesDutyOfItsLevel : Prop :=
  ∀ (s : State) (slot : Fin 40) (l : Level), s.ph = BitVec.ofNat 10 (0x1C0 + slot.val) →
    (∀ bs rest, bs.length = 6 → pendingBits s.cfg s.ret = bs ++ rest →
      ∃ r, exec (.set l) s = .next { s with ret := r } ∧
        r.buf = s.ret.buf.set slot s.cfg.dutyTable[l.toFin] ∧ r.fc = s.ret.fc ∧ r.rc = s.ret.rc ∧
        8 * r.cur.toNat + s.ret.nb.toNat = 8 * s.ret.cur.toNat + r.nb.toNat + 6 ∧
        pendingBits s.cfg r = rest) ∧
    ((pendingBits s.cfg s.ret).length < 6 →
      exec (.set l) s = .next { s with fault := some .streamOverrun, ph := 0x3C0 })

/-- R94: compare, reset the loop, then count; the next step is DECODE_TOKEN(39). -/
def Obligations.DecodeBeginComparesResetsThenCounts : Prop :=
  ∀ s : State,
    (s.ret.fc = s.cfg.frameCount →
      exec .decodeBegin s = .next { s with
        ret := { s.ret with buf := Vector.replicate 40 0, cur := 0, nb := 0, wb := 0, fc := 1 }
        ph := 0x1E7 }) ∧
    (s.ret.fc ≠ s.cfg.frameCount →
      exec .decodeBegin s = .next { s with ret := { s.ret with fc := s.ret.fc + 1 }, ph := 0x1E7 })

/-- R95 and R92: a clear flag keeps the slot's cell; the next slot down follows, SLEEP after
slot 0. -/
def Obligations.DecodeTokenKeepsOnClearFlag : Prop :=
  ∀ (s : State) (slot : Fin 40) (rest : List Bool),
    pendingBits s.cfg s.ret = false :: rest →
    ∃ r, exec (.decodeToken (BitVec.ofNat 6 slot.val)) s = .next { s with
        ret := r
        ph := BitVec.ofNat 10 (if slot.val = 0 then 0x200 else 0x1C0 + (slot.val - 1)) } ∧
      r.buf = s.ret.buf ∧ r.fc = s.ret.fc ∧ r.rc = s.ret.rc ∧
      8 * r.cur.toNat + s.ret.nb.toNat = 8 * s.ret.cur.toNat + r.nb.toNat + 1 ∧
      pendingBits s.cfg r = rest

/-- R95, R93 and R71: a set flag and five level bits write the level's duty to the slot's cell. -/
def Obligations.DecodeTokenSetsOnSetFlag : Prop :=
  ∀ (s : State) (slot : Fin 40) (b1 b2 b3 b4 b5 : Bool) (rest : List Bool),
    pendingBits s.cfg s.ret = true :: b1 :: b2 :: b3 :: b4 :: b5 :: rest →
    ∃ r, exec (.decodeToken (BitVec.ofNat 6 slot.val)) s = .next { s with
        ret := r
        ph := BitVec.ofNat 10 (if slot.val = 0 then 0x200 else 0x1C0 + (slot.val - 1)) } ∧
      r.buf = s.ret.buf.set slot (s.cfg.dutyTable[
        (BitVec.ofNat 5 (16 * b1.toNat + 8 * b2.toNat + 4 * b3.toNat + 2 * b4.toNat +
          b5.toNat)).toFin]) ∧
      r.fc = s.ret.fc ∧ r.rc = s.ret.rc ∧
      8 * r.cur.toNat + s.ret.nb.toNat = 8 * s.ret.cur.toNat + r.nb.toNat + 6 ∧
      pendingBits s.cfg r = rest

/-- R95, R66 and R151: a step that needs a bit the stream does not have records STREAM_OVERRUN and
discards everything it read. -/
def Obligations.DecodeTokenOverrunDiscardsTheStep : Prop :=
  ∀ (s : State) (slot : Fin 40),
    (pendingBits s.cfg s.ret = [] ∨
      ∃ bs, pendingBits s.cfg s.ret = true :: bs ∧ bs.length < 5) →
    exec (.decodeToken (BitVec.ofNat 6 slot.val)) s =
      .next { s with fault := some .streamOverrun, ph := 0x3C0 }

/-- R95 over R92 and R93: at DECODE_TOKEN(s), where the pending bits begin with a whole token, the
step does what that token does, and then sets PH. That the token as an instruction of its own reads
its flag bit too, and leaves PH alone, is the model's choice (log 15). -/
def Obligations.DecodeTokenRunsThePendingToken : Prop :=
  ∀ (s t : State) (slot : Fin 40) (tok : Token) (rest : List Bool),
    s.ph = BitVec.ofNat 10 (0x1C0 + slot.val) →
    pendingBits s.cfg s.ret = tokenBits tok ++ rest →
    exec tok.toInstr s = .next t →
    exec (.decodeToken (BitVec.ofNat 6 slot.val)) s =
      .next { t with ph := BitVec.ofNat 10 (if slot.val = 0 then 0x200 else 0x1C0 + (slot.val - 1)) }

/-! ### Scan steps -/

/-- R113: cell i is at row i div 5 and column i mod 5, the inverse of y·5 + x. -/
def Obligations.CellIndexIsRowTimesFivePlusColumn : Prop :=
  ∀ i : Fin 40, (rowOf i).val = i.val / 5 ∧ (colOf i).val = i.val % 5 ∧
    5 * (rowOf i).val + (colOf i).val = i.val

/-- R112: the on-time of a pulse, and its order: none for duty 0, least for duty 1, strictly rising
from 2 on. -/
def Obligations.OnTimeFollowsTheTimingRule : Prop :=
  ∀ c : Config,
    onTime c 0 = 0 ∧ onTime c 1 = c.pulseMin ∧
    (∀ d : Byte, 2 ≤ d.toNat → onTime c d = c.pulseBase + c.pulseSlope * d.toNat) ∧
    (pulseTimingLegal c = true →
      (∀ d : Byte, d ≠ 0 → 0 < onTime c d ∧ onTime c 1 ≤ onTime c d) ∧
      ∀ d e : Byte, 2 ≤ d.toNat → d.toNat < e.toNat → onTime c d < onTime c e)

/-- R114, R115: with every line OFF, as between any two steps, SCAN_CELL(k) emits one pulse for a
cell that is not dark and none for a dark one, leaves every line OFF, and goes to the next position,
SCAN_END after position 39. -/
def Obligations.ScanCellPulsesLitCellsOnly : Prop :=
  ∀ (s : State) (k : Fin 40), linesOff s →
    exec (.scanCell (BitVec.ofNat 6 k.val)) s = .next { s with
      ph := BitVec.ofNat 10 (if k.val = 39 then 0x140 else 0x100 + (k.val + 1))
      trace :=
        let i := s.cfg.scanOrder[k]
        let d := s.ret.buf[i]
        let row := s.cfg.rowLine[rowOf i]
        let col := s.cfg.colLine[colOf i]
        let rowHigh : Bool := s.cfg.rowPol[rowOf i] == 1
        if d = 0 then s.trace
        else s.trace ++ [{
          k := k.val
          i := i.val
          y := i.val / 5
          x := i.val % 5
          hiLine := if rowHigh then row.val else col.val
          loLine := if rowHigh then col.val else row.val
          d := d.toNat
          on := onTime s.cfg d }] }

/-- R118, R114: while the pulse of a cell is held, one line is HIGH and one is LOW, one of them the
cell's row line and the other its column line, and every other line is OFF. -/
def Obligations.HeldPulseDrivesOneRowAndOneColumn : Prop :=
  ∀ (s : State) (i : Fin 40), wiringLegal s.cfg = true → linesOff s →
    let held := activatePair i s
    let row := s.cfg.rowLine[rowOf i]
    let col := s.cfg.colLine[colOf i]
    row ≠ col ∧
    (if s.cfg.rowPol[rowOf i] = 1 then held.lines[row] = .high ∧ held.lines[col] = .low
      else held.lines[row] = .low ∧ held.lines[col] = .high) ∧
    ∀ l : Fin 13, l ≠ row → l ≠ col → held.lines[l] = .off

/-- R116: the refresh is counted modulo 256, and the REFRESH_PER_FRAME-th starts a decode. -/
def Obligations.ScanEndCountsTheRefresh : Prop :=
  ∀ s : State,
    (s.ret.rc + 1 = s.cfg.refreshPerFrame →
      exec .scanEnd s = .next { s with ret := { s.ret with rc := 0 }, ph := 0x180 }) ∧
    (s.ret.rc + 1 ≠ s.cfg.refreshPerFrame →
      exec .scanEnd s = .next { s with ret := { s.ret with rc := s.ret.rc + 1 }, ph := 0x200 })

/-- R117: the scan of a refresh emits one record for each cell that is not dark, in scan order, and
writes nothing else but PH. -/
def Obligations.RefreshEmitsLitCellsInScanOrder : Prop :=
  ∀ s : State, linesOff s →
    execAll scanCellSteps s = .next { s with
      ph := 0x140
      trace := s.trace ++ (List.finRange 40).filterMap fun k =>
        let i := s.cfg.scanOrder[k]
        if s.ret.buf[i] = 0 then none else some (pulseRecord s.cfg k i s.ret.buf[i]) }

/-- R118: a refresh of a buffer of all-255 values emits exactly 40 records, one for each cell, each
with d = 255 and two different lines. -/
def Obligations.FullBrightRefreshVisitsEveryCellOnce : Prop :=
  ∀ s : State, legal s.cfg = true → linesOff s → (∀ i : Fin 40, s.ret.buf[i] = 255) →
    ∃ ps t, execAll scanCellSteps s = .next t ∧ t.trace = s.trace ++ ps ∧
      (ps.map Pulse.i).Perm (List.range 40) ∧ ∀ p ∈ ps, p.d = 255 ∧ p.hiLine ≠ p.loLine

/-- R120, R117: from RC = 0, a decode starts at the end of refreshes number REFRESH_PER_FRAME,
2·REFRESH_PER_FRAME, ... and of no other, whatever the buffer holds. It is said twice: of n bare
SCAN_END steps, which count alone; and of the refresh after n whole refreshes, each with its cell
steps and the decode it started, where none of those decodes overran the stream. -/
def Obligations.DecodeFollowsEveryNthRefresh : Prop :=
  (∀ (s : State) (n : Nat), s.cfg.refreshPerFrame ≠ 0 → s.ret.rc = 0 → 0 < n →
    ∃ t, execAll (List.replicate n .scanEnd) s = .next t ∧
      t.ret.rc.toNat = n % s.cfg.refreshPerFrame.toNat ∧
      (t.ph = 0x180 ↔ s.cfg.refreshPerFrame.toNat ∣ n) ∧
      (t.ph = 0x200 ↔ ¬ s.cfg.refreshPerFrame.toNat ∣ n)) ∧
  ∀ (s u : State) (n : Nat), s.cfg.refreshPerFrame ≠ 0 → s.ret.rc = 0 →
    refreshes n s = .next u →
    ∃ t, execAll refreshSteps u = .next t ∧ t.ret.buf = u.ret.buf ∧
      t.ret.rc.toNat = (n + 1) % s.cfg.refreshPerFrame.toNat ∧
      (t.ph = 0x180 ↔ s.cfg.refreshPerFrame.toNat ∣ n + 1) ∧
      (t.ph = 0x200 ↔ ¬ s.cfg.refreshPerFrame.toNat ∣ n + 1)

/-! ### Controller steps and events -/

/-- R132: cause 1 takes the warm path, every other cause the cold path; only PH is written. -/
def Obligations.DispatchChoosesThePathByCause : Prop :=
  ∀ s : State,
    (s.cause = 1 → exec .dispatch s = .next { s with ph := 0x0C1 }) ∧
    (s.cause ≠ 1 → exec .dispatch s = .next { s with ph := 0x080 })

/-- R133: every retained element becomes 0. -/
def Obligations.ColdInitZeroesTheRetainedGroup : Prop :=
  ∀ s : State, exec .coldInit s = .next { s with
    ret := { buf := Vector.replicate 40 0, fc := 0, rc := 0, cur := 0, wb := 0, nb := 0 }
    ph := 0x0C0 }

/-- R134: the steady interval, the count restarted; SLEEP on the cold path, the scan on the warm
path. -/
def Obligations.ArmTimerRestartsTheSteadyInterval : Prop :=
  ∀ s : State,
    exec (.armTimer 0) s = .next { s with wtInt := 1, wtCnt := 0, ph := 0x200 } ∧
    exec (.armTimer 1) s = .next { s with wtInt := 1, wtCnt := 0, ph := 0x100 }

/-- R135: SLEEP writes nothing. -/
def Obligations.SleepWritesNoState : Prop := ∀ s : State, exec .sleep s = .next s

/-- R135, R165: a sleeping block leaves SLEEP only by a reset event, to DISPATCH, and its retained
group survives. That time passing in SLEEP is a step of its own is the model's choice (log 9). -/
def Obligations.SleepIsLeftOnlyByAReset : Prop :=
  ∀ s t : State, s.started = true → s.ph = 0x200 → step s = .next t →
    t.ret = s.ret ∧ t.trace = s.trace ∧ t.fault = s.fault ∧
    ((t.ph = 0x200 ∧ t.lines = s.lines ∧ t.cause = s.cause ∧ t.wtInt = s.wtInt) ∨
      (t.ph = 0x040 ∧ (∀ l : Fin 13, t.lines[l] = .off) ∧ t.wtInt = 0 ∧ t.wtCnt = 0 ∧
        (t.cause = 1 ∨ t.cause = 2 ∨ t.cause = 3)))

/-- R131, R38, R39: POWER_ON draws the retained group, starts the run's records and enters
DISPATCH with cause 0. The draws are free values; the counters of draws and of time are the model's
own (log 4, log 12). -/
def Obligations.PowerOnDrawsTheRetainedGroup : Prop :=
  ∀ s : State, exec .powerOn s = .next { s with
    ret := drawnRetained s.draws
    fault := none
    trace := []
    ph := 0x040
    lines := Vector.replicate 13 .off
    cause := 0
    wtInt := 0
    wtCnt := 0
    started := true
    draws := s.draws + 1
    time := 0 }

/-- R136: the timeout wakes a sleeping block by RESET(1); anywhere else it is the fault
WAKE_OVERRUN, which writes FAULT and PH only (R151). -/
def Obligations.TimeoutWakesASleepingBlock : Prop :=
  ∀ s : State,
    (s.ph = 0x200 → exec .timeout s = .next { s with
      ph := 0x040, lines := Vector.replicate 13 .off, cause := 1, wtInt := 0, wtCnt := 0 }) ∧
    (s.ph ≠ 0x200 → exec .timeout s = .next { s with fault := some .wakeOverrun, ph := 0x3C0 })

/-- R137, R130, R157: an environment reset writes the volatile group alone, with its own cause. -/
def Obligations.EnvironmentResetsWriteTheVolatileGroup : Prop :=
  ∀ s : State,
    exec .externalReset s = .next { s with
      ph := 0x040, lines := Vector.replicate 13 .off, cause := 2, wtInt := 0, wtCnt := 0 } ∧
    exec .otherReset s = .next { s with
      ph := 0x040, lines := Vector.replicate 13 .off, cause := 3, wtInt := 0, wtCnt := 0 }

/-- R151, R140: the faulted state is stuck. The instruction stops, and so does the step, whatever
the timer and the environment do; being stuck is this stop in the model (log 8). -/
def Obligations.FaultedStateIsStuck : Prop :=
  ∀ s : State, exec .fault s = .fault (.stuck s.fault) ∧
    (legal s.cfg = true → s.started = true → s.ph = 0x3C0 → step s = .fault (.stuck s.fault))

/-- R78, R156: at a reserved phase, step selection raises ILLEGAL_PHASE, before the timer is looked
at; a term outside the table's index ranges raises it too (log 16). -/
def Obligations.ReservedPhaseRaisesIllegalPhase : Prop :=
  (∀ (ph : Phase) (s : State),
    exec (.illegal ph) s = .next { s with fault := some .illegalPhase, ph := 0x3C0 }) ∧
  (∀ s : State, legal s.cfg = true → s.started = true → arrivingReset s = none →
    phaseDefined s.ph = false →
    step s = .next { s with fault := some .illegalPhase, ph := 0x3C0, env := s.env.tail }) ∧
  ∀ (k : PhaseIndex) (s : State), 40 ≤ k.toNat →
    exec (.scanCell k) s = .next { s with fault := some .illegalPhase, ph := 0x3C0 } ∧
    exec (.decodeToken k) s = .next { s with fault := some .illegalPhase, ph := 0x3C0 }

/-- R38, R131 (what the spec gives for POWER_ON; the retained group and the configuration are the
model's choice, log 1 and log 3, and are not stated): the state after reset. -/
def Obligations.ResetStateIsAfterPowerOn : Prop :=
  State.reset.ph = 0x040 ∧ (∀ l : Fin 13, State.reset.lines[l] = .off) ∧ State.reset.cause = 0 ∧
  State.reset.wtInt = 0 ∧ State.reset.wtCnt = 0 ∧ State.reset.fault = none ∧
  State.reset.trace = []

/-! ### Step selection, refusal and time -/

/-- R140: where no event comes first, a step runs the instruction that PH decodes to, and then the
boundary's bookkeeping `settle`. R140 (1) enables no step at PH = SLEEP: that a step runs the wait
there, in which time passes and nothing is written, is the model's choice (log 9). -/
def Obligations.StepRunsTheDecodedInstruction : Prop :=
  ∀ (s : State) (i : Instr), legal s.cfg = true → s.started = true → s.ph ≠ 0x3C0 →
    arrivingReset s = none → decodePhase s.ph = i → timerExpires i s = false →
    ∃ t, exec i s = .next t ∧ step s = .next (settle i s t)

/-- R155, R140: POWER_ON comes before EXTERNAL_RESET, that before OTHER_RESET, and that before
TIMEOUT and every step; the boundary's other events are lost. The schedule of inputs is the model's own (log 6). -/
def Obligations.ResetEventsTakePriority : Prop :=
  ∀ (s : State) (e : EnvInput) (rest : List EnvInput), legal s.cfg = true → s.env = e :: rest →
    (s.started = false → ∃ t, step s = .next t ∧ t.ph = 0x040 ∧ t.cause = 0 ∧ t.env = rest) ∧
    (s.started = true → s.ph ≠ 0x3C0 → e.externalReset = true →
      ∃ t, step s = .next t ∧ t.ph = 0x040 ∧ t.cause = 2 ∧ t.ret = s.ret ∧ t.env = rest) ∧
    (s.started = true → s.ph ≠ 0x3C0 → e.externalReset = false → e.otherReset = true →
      ∃ t, step s = .next t ∧ t.ph = 0x040 ∧ t.cause = 3 ∧ t.ret = s.ret ∧ t.env = rest)

/-- R160, R156: a step of cost c runs where WT_CNT + c stays below INTERVAL, and its cycles pass;
otherwise the timeout comes within it, and the state is the one before the step with WAKE_OVERRUN
recorded. -/
def Obligations.TimerExpiryWithinAStepFaults : Prop :=
  ∀ s : State, legal s.cfg = true → s.started = true → arrivingReset s = none →
    phaseDefined s.ph = true → s.ph ≠ 0x3C0 → s.ph ≠ 0x200 →
    (interval s ≤ s.wtCnt + stepCost (decodePhase s.ph) s →
      step s = .next { s with fault := some .wakeOverrun, ph := 0x3C0, env := s.env.tail }) ∧
    (s.wtCnt + stepCost (decodePhase s.ph) s < interval s →
      ∃ u t, exec (decodePhase s.ph) s = .next u ∧ step s = .next t ∧ t.ret = u.ret ∧
        t.ph = u.ph ∧ t.trace = u.trace ∧ t.fault = u.fault ∧ t.env = s.env.tail ∧
        (u.ph ≠ 0x3C0 →
          t.time = s.time + stepCost (decodePhase s.ph) s ∧
          t.wtCnt = if s.ph = 0x0C0 ∨ s.ph = 0x0C1 then 0
            else s.wtCnt + stepCost (decodePhase s.ph) s))

/-- R160, R136: with no environment input, a sleeping block waits out the interval, in one step by
the model's choice (log 9), and then takes TIMEOUT. The cycles are counted on the model's clock, to
which alone C_RESET (R191) is charged (log 12). -/
def Obligations.SleepWaitsOutTheInterval : Prop :=
  ∀ s : State, legal s.cfg = true → s.started = true → s.env = [] → s.ph = 0x200 →
    s.wtCnt < interval s →
    Host.Core.run Sys2Proof.core 2 s = .next { s with
      ph := 0x040
      lines := Vector.replicate 13 .off
      cause := 1
      wtInt := 0
      wtCnt := 0
      time := s.time + (interval s - s.wtCnt) + s.cfg.cReset }

/-- R191, R112: what each step and event costs. A SCAN_CELL with a pulse costs its hold T(d) too; a
DECODE_TOKEN costs its token, and one refill where its bits run past WB. -/
def Obligations.StepCostsFollowTheCostTable : Prop :=
  (∀ (s : State) (k : PhaseIndex),
    (∀ rest, pendingBits s.cfg s.ret = false :: rest →
      stepCost (.decodeToken k) s =
        s.cfg.cTokenKeep + if s.ret.nb = 0 then s.cfg.cRefill else 0) ∧
    (∀ bs rest, bs.length = 5 → pendingBits s.cfg s.ret = true :: bs ++ rest →
      stepCost (.decodeToken k) s =
        s.cfg.cTokenSet + if s.ret.nb.toNat < 6 then s.cfg.cRefill else 0)) ∧
  (∀ (s : State) (k : Fin 40),
    let d := s.ret.buf[s.cfg.scanOrder[k]]
    (d = 0 → stepCost (.scanCell (BitVec.ofNat 6 k.val)) s = s.cfg.cCellSkip) ∧
    (d = 1 →
      stepCost (.scanCell (BitVec.ofNat 6 k.val)) s = s.cfg.cCellPulse + s.cfg.pulseMin) ∧
    (2 ≤ d.toNat →
      stepCost (.scanCell (BitVec.ofNat 6 k.val)) s =
        s.cfg.cCellPulse + (s.cfg.pulseBase + s.cfg.pulseSlope * d.toNat))) ∧
  ∀ s : State,
    (s.ret.fc = s.cfg.frameCount → stepCost .decodeBegin s = s.cfg.cDecodeBeginReset) ∧
    (s.ret.fc ≠ s.cfg.frameCount → stepCost .decodeBegin s = s.cfg.cDecodeBegin) ∧
    stepCost .dispatch s = s.cfg.cDispatch ∧ stepCost .coldInit s = s.cfg.cColdInit ∧
    (∀ p, stepCost (.armTimer p) s = s.cfg.cArm) ∧ stepCost .scanEnd s = s.cfg.cScanEnd ∧
    stepCost .powerOn s = s.cfg.cReset ∧ stepCost .timeout s = s.cfg.cReset ∧
    stepCost .externalReset s = s.cfg.cReset ∧ stepCost .otherReset s = s.cfg.cReset

/-- R110, R111, R112, R8 and R160, with the two positive rates of log 14: the configurations the
model runs. -/
def Obligations.LegalConfigurationMeetsEveryConstraint : Prop :=
  ∀ c : Config, legal c = true ↔
    (c.dutyTable[0] = 0 ∧ c.dutyTable[31] = 255 ∧
      ∀ a b : Fin 32, a ≤ b → c.dutyTable[a].toNat ≤ c.dutyTable[b].toNat) ∧
    ((∀ y y' : Fin 8, c.rowLine[y] = c.rowLine[y'] → y = y') ∧
      (∀ x x' : Fin 5, c.colLine[x] = c.colLine[x'] → x = x') ∧
      ∀ (y : Fin 8) (x : Fin 5), c.rowLine[y] ≠ c.colLine[x]) ∧
    (∀ k k' : Fin 40, c.scanOrder[k] = c.scanOrder[k'] → k = k') ∧
    (1 ≤ c.pulseMin ∧ 1 ≤ c.pulseSlope ∧ c.pulseMin ≤ c.pulseBase + 2 * c.pulseSlope) ∧
    (c.frameCount ≠ 0 ∧ c.refreshPerFrame ≠ 0 ∧ c.streamLen ≠ 0 ∧
      c.refreshRate ≠ 0 ∧ c.clkHz ≠ 0) ∧
    (0 < c.defaultInterval ∧ c.defaultInterval < c.steadyInterval)

/-- R152, R150: a step is refused exactly where the configuration is illegal; no legal configuration
is ever refused. -/
def Obligations.OnlyIllegalConfigurationsAreRefused : Prop :=
  ∀ s : State,
    (legal s.cfg = false → step s = .refused .illegalConfiguration) ∧
    (legal s.cfg = true → ∀ r, step s ≠ .refused r)

/-! ### The whole machine -/

/-- R50, R20 (3): no step writes the configuration, the stream ROM among it. -/
def Obligations.ConfigurationIsNeverWritten : Prop :=
  ∀ s t : State, step s = .next t → t.cfg = s.cfg

/-- R41 (its columns of writes): each register is written only by the steps and events of its
column; KEEP and SET stand with DECODE_TOKEN, which runs them, and write PH by a fault only
(log 15). -/
def Obligations.RegistersAreWrittenOnlyByTheirColumn : Prop :=
  ∀ (i : Instr) (s t : State), exec i s = .next t →
    (t.ret.buf ≠ s.ret.buf → i = .coldInit ∨ i = .decodeBegin ∨ i = .powerOn ∨
      (∃ k, i = .decodeToken k) ∨ ∃ l, i = .set l) ∧
    (t.ret.fc ≠ s.ret.fc → i = .coldInit ∨ i = .decodeBegin ∨ i = .powerOn) ∧
    (t.ret.rc ≠ s.ret.rc → i = .coldInit ∨ i = .scanEnd ∨ i = .powerOn) ∧
    ((t.ret.cur ≠ s.ret.cur ∨ t.ret.wb ≠ s.ret.wb ∨ t.ret.nb ≠ s.ret.nb) →
      i = .coldInit ∨ i = .decodeBegin ∨ i = .powerOn ∨ i = .keep ∨
      (∃ k, i = .decodeToken k) ∨ ∃ l, i = .set l) ∧
    (t.lines ≠ s.lines → (∃ k, i = .scanCell k) ∨ i = .powerOn ∨ i = .timeout ∨
      i = .externalReset ∨ i = .otherReset) ∧
    (t.cause ≠ s.cause → i = .powerOn ∨ i = .timeout ∨ i = .externalReset ∨ i = .otherReset) ∧
    ((t.wtInt ≠ s.wtInt ∨ t.wtCnt ≠ s.wtCnt) → (∃ p, i = .armTimer p) ∨ i = .powerOn ∨
      i = .timeout ∨ i = .externalReset ∨ i = .otherReset) ∧
    (t.ph ≠ s.ph → i ≠ .sleep ∧ ((i = .keep ∨ ∃ l, i = .set l) → t.ph = 0x3C0)) ∧
    (t.trace ≠ s.trace → (∃ k, i = .scanCell k) ∨ i = .powerOn)

/-- R30, R33, R37: within a run the trace only grows, by at most one record a step, a recorded
fault stays recorded, and FAULT is written only by a step that faults. -/
def Obligations.TraceGrowsAndFaultsStay : Prop :=
  ∀ s t : State, s.started = true → step s = .next t →
    (∃ new, t.trace = s.trace ++ new ∧ new.length ≤ 1) ∧
    (s.fault ≠ none → t.fault ≠ none) ∧
    (t.fault = s.fault ∨ t.ph = 0x3C0 ∧ t.fault ≠ none) ∧ t.started = true

/-- R33, R151: every step keeps the invariant that within a run FAULT holds a kind exactly where PH
is 0x3C0. There the run is stuck, so what is recorded is recorded once and for good. -/
def Obligations.FaultIsRecordedExactlyInTheFaultedPhase : Prop :=
  ∀ s t : State, (s.started = true → (s.fault ≠ none ↔ s.ph = 0x3C0)) → step s = .next t →
    (t.fault ≠ none ↔ t.ph = 0x3C0) ∧ t.started = true ∧
    (t.ph = 0x3C0 → step t = .fault (.stuck t.fault))

/-- R40, R182: every step keeps the invariant: PH a defined value, the lines OFF, and the retained
group in range from the first COLD_INIT on. -/
def Obligations.StepKeepsTheRunInvariant : Prop :=
  ∀ s t : State, legal s.cfg = true → RunInv s → step s = .next t → RunInv t

/-- The invariant of R40 holds after reset. -/
def Obligations.RunInvariantHoldsAtReset : Prop := RunInv State.reset

/-- R97: every step keeps the reader where the tokens decoded so far end, P = LEN(0) + ... . -/
def Obligations.StepKeepsTheFramePosition : Prop :=
  ∀ s t : State, legal s.cfg = true → PositionInv s → step s = .next t → PositionInv t

/-- R97's position holds after reset. -/
def Obligations.FramePositionHoldsAtReset : Prop := PositionInv State.reset

/-- R99: with a well-formed asset no step overruns the stream. -/
def Obligations.WellFormedAssetIsNeverOverrun : Prop :=
  ∀ s t : State, assetWellFormed s.cfg = true → PositionInv s →
    s.fault ≠ some .streamOverrun → step s = .next t → t.fault ≠ some .streamOverrun

/-- R185 (with the model's own clause of log 11): within the timing budget, every step keeps the
bound on WT_CNT, and none ends in WAKE_OVERRUN. -/
def Obligations.TimingBudgetExcludesWakeOverrun : Prop :=
  ∀ s t : State, legal s.cfg = true → TimingBudgetOk s.cfg → OverrunWithinBudget s.cfg →
    RunInv s → BudgetInv s → step s = .next t →
    BudgetInv t ∧ (s.fault ≠ some .wakeOverrun → t.fault ≠ some .wakeOverrun)

/-- R161: within the timing budget (and the model's own clause of log 11), a timed step is a step
of the untimed model as log 19 makes it one function, or time passing in SLEEP (log 9). -/
def Obligations.TimedStepRefinesUntimedStep : Prop :=
  ∀ s t : State, legal s.cfg = true → TimingBudgetOk s.cfg → OverrunWithinBudget s.cfg →
    RunInv s → BudgetInv s → step s = .next t →
    untimedStep (eraseTime s) = .next (eraseTime t) ∨
    (s.ph = 0x200 ∧ eraseTime t = eraseTime { s with env := s.env.tail })

/-- R160, R192: between two restarts of the timer, the clock and WT_CNT advance together, and a
wait never runs past the interval. The clock is the model's own (log 12). -/
def Obligations.ClockAndTimerAdvanceTogether : Prop :=
  ∀ s t : State, step s = .next t → writesCount (select s) = false →
    t.time + s.wtCnt = s.time + t.wtCnt ∧
    (s.ph = 0x200 → s.wtCnt ≤ interval s → t.wtCnt ≤ interval t)

/-- R138, R180: with the budget met and no environment reset, the cold path is DISPATCH, COLD_INIT
and ARM_TIMER(0), and ends asleep with the retained group all zero. -/
def Obligations.ColdPathEndsAsleepAndZeroed : Prop :=
  ∀ s : State, legal s.cfg = true → TimingBudgetOk s.cfg → s.started = true → s.env = [] →
    s.ph = 0x040 → s.cause ≠ 1 → s.wtInt = 0 → s.wtCnt = 0 →
    Host.Core.run Sys2Proof.core 3 s = .next { s with
      ret := Retained.zero
      ph := 0x200
      wtInt := 1
      wtCnt := 0
      time := s.time + (s.cfg.cDispatch + s.cfg.cColdInit + s.cfg.cArm) }

/-- R96, R100: forty tokens decoded in descending slot order set each slot to its SET token's duty
and keep it under a KEEP token; then the block sleeps, and the next frame begins at the next bit. -/
def Obligations.FrameDecodeAppliesEachToken : Prop :=
  ∀ (s : State) (ts : List Token) (rest : List Bool), ts.length = 40 →
    pendingBits s.cfg s.ret = streamOfTokens ts ++ rest →
    ∃ r, execAll frameTokenSteps s = .next { s with ret := r, ph := 0x200 } ∧
      pendingBits s.cfg r = rest ∧ r.fc = s.ret.fc ∧ r.rc = s.ret.rc ∧
      ∀ i : Fin 40, r.buf[i] =
        match ts[39 - i.val]? with
        | some (.set l) => s.cfg.dutyTable[l.toFin]
        | _ => s.ret.buf[i]

/-- R98: from the all-zero retained state, the decoder's state after call FRAMECOUNT + 1 + m equals
that after call 1 + m, where those calls do not overrun the stream. -/
def Obligations.DecoderRepeatsAfterFrameCountCalls : Prop :=
  ∀ (s u v : State) (m : Nat), s.cfg.frameCount ≠ 0 → s.ret = Retained.zero →
    decodeCalls s.cfg.frameCount.toNat s = .next u → decodeCalls (1 + m) s = .next v →
    ∃ w, decodeCalls (s.cfg.frameCount.toNat + (1 + m)) s = .next w ∧ w.ret = v.ret

/-- R192, R139: with the budget met, a well-formed asset and no environment reset, each wake
completes, and from one TIMEOUT to the next is C_RESET + C_DISPATCH + C_ARM + STEADY_INTERVAL
cycles of the model's clock (log 12). -/
def Obligations.RefreshPeriodIsConstant : Prop :=
  ∀ s : State, legal s.cfg = true → TimingBudgetOk s.cfg → assetWellFormed s.cfg = true →
    RunInv s → PositionInv s → s.started = true → s.env = [] →
    s.ph = 0x200 → s.wtInt = 1 → s.wtCnt = interval s →
    ∃ n t, Host.Core.run Sys2Proof.core n s = .next t ∧ 0 < n ∧
      t.ph = 0x200 ∧ t.wtInt = 1 ∧ t.wtCnt = interval t ∧
      t.time = s.time + (s.cfg.cReset + s.cfg.cDispatch + s.cfg.cArm + s.cfg.steadyInterval)

/-- R141, R182: a run goes on unless it has faulted; its observation points come only from the steps
that enter SLEEP, ARM_TIMER(0), SCAN_END and DECODE_TOKEN(0); and with the timing budget met and no
environment reset, what it shows from POWER_ON to the first wake is one retained state, all zero,
with no pulse and no fault, whatever POWER_ON drew. A run is a prefix of n steps, the waiting step
of log 9 among them. -/
def Obligations.RunIsObservedWhereItEntersSleep : Prop :=
  (∀ s : State, legal s.cfg = true → (s.started = true → s.ph ≠ 0x3C0) →
    ∃ t, step s = .next t) ∧
  (∀ s t : State, step s = .next t → observationPoint s t = true →
    s.started = true ∧ (s.ph = 0x0C0 ∨ s.ph = 0x140 ∨ s.ph = 0x1C0)) ∧
  ∀ s : State, runStarts s → TimingBudgetOk s.cfg → s.env = [] →
    observeRun 3 s = { retained := [], trace := [], fault := none } ∧
    ∀ n : Nat, 4 ≤ n → n ≤ 6 →
      observeRun n s = { retained := [Retained.zero], trace := [], fault := none }
end

