-- ==== Sys2Proof/Laws/State.lean ====
section
/-! SUPPORT. One lemma for each field under each named update of the state, all true by rfl, so that
no later proof unfolds a record update. -/

namespace Sys2Proof.Machine

/-! ### setPhase -/

@[simp] theorem setPhase_cfg (ph : Phase) (s : State) :
    (setPhase ph s).cfg = s.cfg := rfl

@[simp] theorem setPhase_ret (ph : Phase) (s : State) :
    (setPhase ph s).ret = s.ret := rfl

@[simp] theorem setPhase_ph (ph : Phase) (s : State) :
    (setPhase ph s).ph = ph := rfl

@[simp] theorem setPhase_lines (ph : Phase) (s : State) :
    (setPhase ph s).lines = s.lines := rfl

@[simp] theorem setPhase_cause (ph : Phase) (s : State) :
    (setPhase ph s).cause = s.cause := rfl

@[simp] theorem setPhase_wtInt (ph : Phase) (s : State) :
    (setPhase ph s).wtInt = s.wtInt := rfl

@[simp] theorem setPhase_wtCnt (ph : Phase) (s : State) :
    (setPhase ph s).wtCnt = s.wtCnt := rfl

@[simp] theorem setPhase_fault (ph : Phase) (s : State) :
    (setPhase ph s).fault = s.fault := rfl

@[simp] theorem setPhase_trace (ph : Phase) (s : State) :
    (setPhase ph s).trace = s.trace := rfl

@[simp] theorem setPhase_started (ph : Phase) (s : State) :
    (setPhase ph s).started = s.started := rfl

@[simp] theorem setPhase_env (ph : Phase) (s : State) :
    (setPhase ph s).env = s.env := rfl

@[simp] theorem setPhase_draws (ph : Phase) (s : State) :
    (setPhase ph s).draws = s.draws := rfl

@[simp] theorem setPhase_time (ph : Phase) (s : State) :
    (setPhase ph s).time = s.time := rfl

/-! ### drive -/

@[simp] theorem drive_cfg (l : Fin 13) (v : LineState) (s : State) :
    (drive l v s).cfg = s.cfg := rfl

@[simp] theorem drive_ret (l : Fin 13) (v : LineState) (s : State) :
    (drive l v s).ret = s.ret := rfl

@[simp] theorem drive_ph (l : Fin 13) (v : LineState) (s : State) :
    (drive l v s).ph = s.ph := rfl

@[simp] theorem drive_lines (l : Fin 13) (v : LineState) (s : State) :
    (drive l v s).lines = s.lines.set l v := rfl

@[simp] theorem drive_cause (l : Fin 13) (v : LineState) (s : State) :
    (drive l v s).cause = s.cause := rfl

@[simp] theorem drive_wtInt (l : Fin 13) (v : LineState) (s : State) :
    (drive l v s).wtInt = s.wtInt := rfl

@[simp] theorem drive_wtCnt (l : Fin 13) (v : LineState) (s : State) :
    (drive l v s).wtCnt = s.wtCnt := rfl

@[simp] theorem drive_fault (l : Fin 13) (v : LineState) (s : State) :
    (drive l v s).fault = s.fault := rfl

@[simp] theorem drive_trace (l : Fin 13) (v : LineState) (s : State) :
    (drive l v s).trace = s.trace := rfl

@[simp] theorem drive_started (l : Fin 13) (v : LineState) (s : State) :
    (drive l v s).started = s.started := rfl

@[simp] theorem drive_env (l : Fin 13) (v : LineState) (s : State) :
    (drive l v s).env = s.env := rfl

@[simp] theorem drive_draws (l : Fin 13) (v : LineState) (s : State) :
    (drive l v s).draws = s.draws := rfl

@[simp] theorem drive_time (l : Fin 13) (v : LineState) (s : State) :
    (drive l v s).time = s.time := rfl

/-! ### emit -/

@[simp] theorem emit_cfg (e : Pulse) (s : State) :
    (emit e s).cfg = s.cfg := rfl

@[simp] theorem emit_ret (e : Pulse) (s : State) :
    (emit e s).ret = s.ret := rfl

@[simp] theorem emit_ph (e : Pulse) (s : State) :
    (emit e s).ph = s.ph := rfl

@[simp] theorem emit_lines (e : Pulse) (s : State) :
    (emit e s).lines = s.lines := rfl

@[simp] theorem emit_cause (e : Pulse) (s : State) :
    (emit e s).cause = s.cause := rfl

@[simp] theorem emit_wtInt (e : Pulse) (s : State) :
    (emit e s).wtInt = s.wtInt := rfl

@[simp] theorem emit_wtCnt (e : Pulse) (s : State) :
    (emit e s).wtCnt = s.wtCnt := rfl

@[simp] theorem emit_fault (e : Pulse) (s : State) :
    (emit e s).fault = s.fault := rfl

@[simp] theorem emit_trace (e : Pulse) (s : State) :
    (emit e s).trace = s.trace ++ [e] := rfl

@[simp] theorem emit_started (e : Pulse) (s : State) :
    (emit e s).started = s.started := rfl

@[simp] theorem emit_env (e : Pulse) (s : State) :
    (emit e s).env = s.env := rfl

@[simp] theorem emit_draws (e : Pulse) (s : State) :
    (emit e s).draws = s.draws := rfl

@[simp] theorem emit_time (e : Pulse) (s : State) :
    (emit e s).time = s.time := rfl

/-! ### raiseFault -/

@[simp] theorem raiseFault_cfg (k : FaultKind) (s : State) :
    (raiseFault k s).cfg = s.cfg := rfl

@[simp] theorem raiseFault_ret (k : FaultKind) (s : State) :
    (raiseFault k s).ret = s.ret := rfl

@[simp] theorem raiseFault_ph (k : FaultKind) (s : State) :
    (raiseFault k s).ph = faultPhase := rfl

@[simp] theorem raiseFault_lines (k : FaultKind) (s : State) :
    (raiseFault k s).lines = s.lines := rfl

@[simp] theorem raiseFault_cause (k : FaultKind) (s : State) :
    (raiseFault k s).cause = s.cause := rfl

@[simp] theorem raiseFault_wtInt (k : FaultKind) (s : State) :
    (raiseFault k s).wtInt = s.wtInt := rfl

@[simp] theorem raiseFault_wtCnt (k : FaultKind) (s : State) :
    (raiseFault k s).wtCnt = s.wtCnt := rfl

@[simp] theorem raiseFault_fault (k : FaultKind) (s : State) :
    (raiseFault k s).fault = some k := rfl

@[simp] theorem raiseFault_trace (k : FaultKind) (s : State) :
    (raiseFault k s).trace = s.trace := rfl

@[simp] theorem raiseFault_started (k : FaultKind) (s : State) :
    (raiseFault k s).started = s.started := rfl

@[simp] theorem raiseFault_env (k : FaultKind) (s : State) :
    (raiseFault k s).env = s.env := rfl

@[simp] theorem raiseFault_draws (k : FaultKind) (s : State) :
    (raiseFault k s).draws = s.draws := rfl

@[simp] theorem raiseFault_time (k : FaultKind) (s : State) :
    (raiseFault k s).time = s.time := rfl

/-! ### resetEntry -/

@[simp] theorem resetEntry_cfg (c : EventCode) (s : State) :
    (resetEntry c s).cfg = s.cfg := rfl

@[simp] theorem resetEntry_ret (c : EventCode) (s : State) :
    (resetEntry c s).ret = s.ret := rfl

@[simp] theorem resetEntry_ph (c : EventCode) (s : State) :
    (resetEntry c s).ph = dispatchPhase := rfl

@[simp] theorem resetEntry_lines (c : EventCode) (s : State) :
    (resetEntry c s).lines = Vector.replicate 13 .off := rfl

@[simp] theorem resetEntry_cause (c : EventCode) (s : State) :
    (resetEntry c s).cause = c := rfl

@[simp] theorem resetEntry_wtInt (c : EventCode) (s : State) :
    (resetEntry c s).wtInt = 0 := rfl

@[simp] theorem resetEntry_wtCnt (c : EventCode) (s : State) :
    (resetEntry c s).wtCnt = 0 := rfl

@[simp] theorem resetEntry_fault (c : EventCode) (s : State) :
    (resetEntry c s).fault = s.fault := rfl

@[simp] theorem resetEntry_trace (c : EventCode) (s : State) :
    (resetEntry c s).trace = s.trace := rfl

@[simp] theorem resetEntry_started (c : EventCode) (s : State) :
    (resetEntry c s).started = s.started := rfl

@[simp] theorem resetEntry_env (c : EventCode) (s : State) :
    (resetEntry c s).env = s.env := rfl

@[simp] theorem resetEntry_draws (c : EventCode) (s : State) :
    (resetEntry c s).draws = s.draws := rfl

@[simp] theorem resetEntry_time (c : EventCode) (s : State) :
    (resetEntry c s).time = s.time := rfl

/-! ### eraseTime -/

@[simp] theorem eraseTime_cfg  (s : State) :
    (eraseTime s).cfg = s.cfg := rfl

@[simp] theorem eraseTime_ret  (s : State) :
    (eraseTime s).ret = s.ret := rfl

@[simp] theorem eraseTime_ph  (s : State) :
    (eraseTime s).ph = s.ph := rfl

@[simp] theorem eraseTime_lines  (s : State) :
    (eraseTime s).lines = s.lines := rfl

@[simp] theorem eraseTime_cause  (s : State) :
    (eraseTime s).cause = s.cause := rfl

@[simp] theorem eraseTime_wtInt  (s : State) :
    (eraseTime s).wtInt = s.wtInt := rfl

@[simp] theorem eraseTime_wtCnt  (s : State) :
    (eraseTime s).wtCnt = 0 := rfl

@[simp] theorem eraseTime_fault  (s : State) :
    (eraseTime s).fault = s.fault := rfl

@[simp] theorem eraseTime_trace  (s : State) :
    (eraseTime s).trace = s.trace := rfl

@[simp] theorem eraseTime_started  (s : State) :
    (eraseTime s).started = s.started := rfl

@[simp] theorem eraseTime_env  (s : State) :
    (eraseTime s).env = s.env := rfl

@[simp] theorem eraseTime_draws  (s : State) :
    (eraseTime s).draws = s.draws := rfl

@[simp] theorem eraseTime_time  (s : State) :
    (eraseTime s).time = 0 := rfl

/-! ### quietBoundary -/

@[simp] theorem quietBoundary_cfg  (s : State) :
    (quietBoundary s).cfg = s.cfg := rfl

@[simp] theorem quietBoundary_ret  (s : State) :
    (quietBoundary s).ret = s.ret := rfl

@[simp] theorem quietBoundary_ph  (s : State) :
    (quietBoundary s).ph = s.ph := rfl

@[simp] theorem quietBoundary_lines  (s : State) :
    (quietBoundary s).lines = s.lines := rfl

@[simp] theorem quietBoundary_cause  (s : State) :
    (quietBoundary s).cause = s.cause := rfl

@[simp] theorem quietBoundary_wtInt  (s : State) :
    (quietBoundary s).wtInt = s.wtInt := rfl

@[simp] theorem quietBoundary_wtCnt  (s : State) :
    (quietBoundary s).wtCnt = 0 := rfl

@[simp] theorem quietBoundary_fault  (s : State) :
    (quietBoundary s).fault = s.fault := rfl

@[simp] theorem quietBoundary_trace  (s : State) :
    (quietBoundary s).trace = s.trace := rfl

@[simp] theorem quietBoundary_started  (s : State) :
    (quietBoundary s).started = true := rfl

@[simp] theorem quietBoundary_env  (s : State) :
    (quietBoundary s).env = [] := rfl

@[simp] theorem quietBoundary_draws  (s : State) :
    (quietBoundary s).draws = s.draws := rfl

@[simp] theorem quietBoundary_time  (s : State) :
    (quietBoundary s).time = s.time := rfl

/-! ### drivePulse -/

@[simp] theorem drivePulse_cfg (k i : Fin 40) (d : Byte) (s : State) :
    (drivePulse k i d s).cfg = s.cfg := rfl

@[simp] theorem drivePulse_ret (k i : Fin 40) (d : Byte) (s : State) :
    (drivePulse k i d s).ret = s.ret := rfl

@[simp] theorem drivePulse_ph (k i : Fin 40) (d : Byte) (s : State) :
    (drivePulse k i d s).ph = s.ph := rfl

@[simp] theorem drivePulse_lines (k i : Fin 40) (d : Byte) (s : State) :
    (drivePulse k i d s).lines = (((s.lines.set (highLine s.cfg i) .high).set (lowLine s.cfg i) .low).set
      (highLine s.cfg i) .off).set (lowLine s.cfg i) .off := rfl

@[simp] theorem drivePulse_cause (k i : Fin 40) (d : Byte) (s : State) :
    (drivePulse k i d s).cause = s.cause := rfl

@[simp] theorem drivePulse_wtInt (k i : Fin 40) (d : Byte) (s : State) :
    (drivePulse k i d s).wtInt = s.wtInt := rfl

@[simp] theorem drivePulse_wtCnt (k i : Fin 40) (d : Byte) (s : State) :
    (drivePulse k i d s).wtCnt = s.wtCnt := rfl

@[simp] theorem drivePulse_fault (k i : Fin 40) (d : Byte) (s : State) :
    (drivePulse k i d s).fault = s.fault := rfl

@[simp] theorem drivePulse_trace (k i : Fin 40) (d : Byte) (s : State) :
    (drivePulse k i d s).trace = s.trace ++ [pulseRecord s.cfg k i d] := rfl

@[simp] theorem drivePulse_started (k i : Fin 40) (d : Byte) (s : State) :
    (drivePulse k i d s).started = s.started := rfl

@[simp] theorem drivePulse_env (k i : Fin 40) (d : Byte) (s : State) :
    (drivePulse k i d s).env = s.env := rfl

@[simp] theorem drivePulse_draws (k i : Fin 40) (d : Byte) (s : State) :
    (drivePulse k i d s).draws = s.draws := rfl

@[simp] theorem drivePulse_time (k i : Fin 40) (d : Byte) (s : State) :
    (drivePulse k i d s).time = s.time := rfl

/-! ### writeCell -/

@[simp] theorem writeCell_buf (i : Fin 40) (v : Byte) (r : Retained) :
    (writeCell r i v).buf = r.buf.set i v := rfl

@[simp] theorem writeCell_fc (i : Fin 40) (v : Byte) (r : Retained) :
    (writeCell r i v).fc = r.fc := rfl

@[simp] theorem writeCell_rc (i : Fin 40) (v : Byte) (r : Retained) :
    (writeCell r i v).rc = r.rc := rfl

@[simp] theorem writeCell_cur (i : Fin 40) (v : Byte) (r : Retained) :
    (writeCell r i v).cur = r.cur := rfl

@[simp] theorem writeCell_wb (i : Fin 40) (v : Byte) (r : Retained) :
    (writeCell r i v).wb = r.wb := rfl

@[simp] theorem writeCell_nb (i : Fin 40) (v : Byte) (r : Retained) :
    (writeCell r i v).nb = r.nb := rfl

/-! ### rewind -/

@[simp] theorem rewind_buf  (r : Retained) :
    (rewind r).buf = Vector.replicate 40 0 := rfl

@[simp] theorem rewind_fc  (r : Retained) :
    (rewind r).fc = 0 := rfl

@[simp] theorem rewind_rc  (r : Retained) :
    (rewind r).rc = r.rc := rfl

@[simp] theorem rewind_cur  (r : Retained) :
    (rewind r).cur = 0 := rfl

@[simp] theorem rewind_wb  (r : Retained) :
    (rewind r).wb = 0 := rfl

@[simp] theorem rewind_nb  (r : Retained) :
    (rewind r).nb = 0 := rfl

/-! ### A token changes the buffer alone -/

@[simp] theorem applyToken_keep (c : Config) (i : Fin 40) (r : Retained) :
    applyToken c i .keep r = r := rfl

@[simp] theorem applyToken_set (c : Config) (i : Fin 40) (l : Level) (r : Retained) :
    applyToken c i (.set l) r = writeCell r i (dutyOf c l) := rfl

@[simp] theorem applyToken_fc (c : Config) (i : Fin 40) (t : Token) (r : Retained) :
    (applyToken c i t r).fc = r.fc := by cases t <;> rfl

@[simp] theorem applyToken_rc (c : Config) (i : Fin 40) (t : Token) (r : Retained) :
    (applyToken c i t r).rc = r.rc := by cases t <;> rfl

@[simp] theorem applyToken_cur (c : Config) (i : Fin 40) (t : Token) (r : Retained) :
    (applyToken c i t r).cur = r.cur := by cases t <;> rfl

@[simp] theorem applyToken_wb (c : Config) (i : Fin 40) (t : Token) (r : Retained) :
    (applyToken c i t r).wb = r.wb := by cases t <;> rfl

@[simp] theorem applyToken_nb (c : Config) (i : Fin 40) (t : Token) (r : Retained) :
    (applyToken c i t r).nb = r.nb := by cases t <;> rfl

end Sys2Proof.Machine
end

