-- ==== Sys2Proof/Laws/Reader.lean ====
section
/-! SUPPORT. The bit reader: what each of its operations can answer, said once
(spec/40_decoder.md R90, R91). -/

namespace Sys2Proof.Machine

theorem refill_cases (c : Config) (r : Retained) :
    (r.nb = 0 ∧ c.streamLen ≤ r.cur ∧ refill c r = none) ∨
    (r.nb = 0 ∧ r.cur < c.streamLen ∧
      refill c r = some { r with wb := c.stream.read r.cur.toNat, cur := r.cur + 1, nb := 8 }) ∨
    (r.nb ≠ 0 ∧ refill c r = some r) := by
  unfold refill
  by_cases h : r.nb = 0
  · by_cases hc : c.streamLen ≤ r.cur
    · exact .inl ⟨h, hc, by simp [h, hc]⟩
    · exact .inr (.inl ⟨h, BitVec.not_le.1 hc, by simp [h, hc]⟩)
  · exact .inr (.inr ⟨h, by rw [if_neg h]⟩)

/-- NEXT_BIT overruns, consumes bit 0 of a byte it loads, or consumes WB[0]. -/
theorem nextBit_cases (c : Config) (r : Retained) :
    (r.nb = 0 ∧ c.streamLen ≤ r.cur ∧ nextBit c r = none) ∨
    (r.nb = 0 ∧ r.cur < c.streamLen ∧
      nextBit c r = some ((c.stream.read r.cur.toNat).getLsbD 0,
        { r with wb := c.stream.read r.cur.toNat >>> 1, cur := r.cur + 1, nb := 7 })) ∨
    (r.nb ≠ 0 ∧ nextBit c r = some (r.wb.getLsbD 0, { r with wb := r.wb >>> 1, nb := r.nb - 1 })) := by
  unfold nextBit
  rcases refill_cases c r with ⟨h, hc, e⟩ | ⟨h, hc, e⟩ | ⟨h, e⟩
  · exact .inl ⟨h, hc, by rw [e]; rfl⟩
  · exact .inr (.inl ⟨h, hc, by rw [e]; simp [consumeBit]⟩)
  · exact .inr (.inr ⟨h, by rw [e]; rfl⟩)

/-- NEXT_BIT writes CUR, WB and NB only. -/
theorem nextBit_frame {c : Config} {r r' : Retained} {b : Bool} (h : nextBit c r = some (b, r')) :
    r'.buf = r.buf ∧ r'.fc = r.fc ∧ r'.rc = r.rc := by
  rcases nextBit_cases c r with ⟨-, -, e⟩ | ⟨-, -, e⟩ | ⟨-, e⟩ <;> rw [e] at h <;> cases h <;>
    exact ⟨rfl, rfl, rfl⟩

/-- One more bit is read only after the bits before it. -/
theorem nextBits_succ_some {c : Config} {n v w : Nat} {r r' : Retained}
    (h : nextBits c (n + 1) v r = some (w, r')) :
    ∃ b r1, nextBit c r = some (b, r1) ∧ nextBits c n (2 * v + b.toNat) r1 = some (w, r') := by
  simp only [nextBits] at h
  split at h
  · cases h
  · rename_i b r1 e
    exact ⟨b, r1, e, h⟩

/-- NEXT_BITS writes CUR, WB and NB only. -/
theorem nextBits_frame {c : Config} {n v w : Nat} {r r' : Retained}
    (h : nextBits c n v r = some (w, r')) : r'.buf = r.buf ∧ r'.fc = r.fc ∧ r'.rc = r.rc := by
  induction n generalizing v r with
  | zero => cases h; exact ⟨rfl, rfl, rfl⟩
  | succ n ih =>
    obtain ⟨b, r1, e, h⟩ := nextBits_succ_some h
    obtain ⟨h1, h2, h3⟩ := nextBit_frame e
    obtain ⟨g1, g2, g3⟩ := ih h
    exact ⟨g1.trans h1, g2.trans h2, g3.trans h3⟩

/-- A token is a clear flag, or a set flag and five level bits. -/
theorem fetchToken_cases {c : Config} {r r' : Retained} {t : Token}
    (h : fetchToken c r = some (t, r')) :
    (t = .keep ∧ nextBit c r = some (false, r')) ∨
    ∃ v r1, t = .set (BitVec.ofNat 5 v) ∧ nextBit c r = some (true, r1) ∧
      nextBits c 5 0 r1 = some (v, r') := by
  unfold fetchToken at h
  split at h
  · cases h
  · rename_i r1 e
    cases h
    exact .inl ⟨rfl, e⟩
  · rename_i r1 e
    split at h
    · cases h
    · rename_i v r2 e2
      cases h
      exact .inr ⟨v, r1, rfl, e, e2⟩

/-- Reading a token writes CUR, WB and NB only. -/
theorem fetchToken_frame {c : Config} {r r' : Retained} {t : Token}
    (h : fetchToken c r = some (t, r')) : r'.buf = r.buf ∧ r'.fc = r.fc ∧ r'.rc = r.rc := by
  rcases fetchToken_cases h with ⟨-, e⟩ | ⟨v, r1, -, e, e2⟩
  · exact nextBit_frame e
  · obtain ⟨h1, h2, h3⟩ := nextBit_frame e
    obtain ⟨g1, g2, g3⟩ := nextBits_frame e2
    exact ⟨g1.trans h1, g2.trans h2, g3.trans h3⟩

end Sys2Proof.Machine
end

