-- ==== Sys2Proof/Laws/Asset.lean ====
section
/-! SUPPORT. Where tokens end in the bitstream (spec/30_encoding.md R73). -/

namespace Sys2Proof.Machine

/-- The end of n + 1 tokens is the end of one more token after n. -/
theorem tokensEnd_succ (c : Config) (n p : Nat) :
    tokensEnd c (n + 1) p =
      (tokensEnd c n p).bind fun q => (tokenLengthAt c q).map (q + ·) := by
  induction n generalizing p with
  | zero => cases h : tokenLengthAt c p <;> simp [tokensEnd, h]
  | succ n ih =>
    rw [tokensEnd]
    conv_rhs => rw [tokensEnd]
    cases tokenLengthAt c p with
    | none => rfl
    | some len => exact ih (p + len)

/-- Tokens that end, end in order: each of the first n of them ends too. -/
theorem tokensEnd_isSome_of_le {c : Config} {m n p : Nat} (h : m ≤ n)
    (hn : (tokensEnd c n p).isSome = true) : (tokensEnd c m p).isSome = true := by
  induction n with
  | zero =>
    rw [Nat.le_zero.1 h]
    exact hn
  | succ n ih =>
    rcases Nat.lt_or_ge m (n + 1) with hm | hm
    · refine ih (by omega) ?_
      rw [tokensEnd_succ] at hn
      cases e : tokensEnd c n p with
      | none => rw [e] at hn; cases hn
      | some q => rfl
    · rw [Nat.le_antisymm h hm]
      exact hn

end Sys2Proof.Machine
end

