-- ==== Sys2Proof/Laws/Encoding.lean ====
section
/-! SUPPORT. The phase register: the two fields of `phase`, its value as a number, the named phases
as the numbers of spec/30_encoding.md R77, what each decodes to, and the phase after a token or a
cell. -/

namespace Sys2Proof

/-! ### The fields of a phase -/

theorem phase_toNat (k : PhaseKind) (i : PhaseIndex) :
    (phase k i).toNat = 64 * k.toNat + i.toNat := by
  have h : (phase k i).toNat = k.toNat <<< 6 ||| i.toNat := BitVec.toNat_append k i
  rw [h, ← Nat.shiftLeft_add_eq_or_of_lt i.isLt, Nat.shiftLeft_eq]
  omega

@[simp] theorem phaseKind_phase (k : PhaseKind) (i : PhaseIndex) : phaseKind (phase k i) = k := by
  apply BitVec.eq_of_toNat_eq
  rw [phaseKind, BitVec.extractLsb'_toNat, phase_toNat, Nat.shiftRight_eq_div_pow]
  omega

@[simp] theorem phaseIndex_phase (k : PhaseKind) (i : PhaseIndex) : phaseIndex (phase k i) = i := by
  apply BitVec.eq_of_toNat_eq
  rw [phaseIndex, BitVec.extractLsb'_toNat, phase_toNat]
  omega

/-! ### The named phases as numbers -/

theorem dispatchPhase_eq : dispatchPhase = 0x040 := by decide
theorem coldInitPhase_eq : coldInitPhase = 0x080 := by decide
theorem armTimerPhase_cold : armTimerPhase 0 = 0x0C0 := by decide
theorem armTimerPhase_warm : armTimerPhase 1 = 0x0C1 := by decide
theorem scanEndPhase_eq : scanEndPhase = 0x140 := by decide
theorem decodeBeginPhase_eq : decodeBeginPhase = 0x180 := by decide
theorem sleepPhase_eq : sleepPhase = 0x200 := by decide
theorem faultPhase_eq : faultPhase = 0x3C0 := by decide

theorem scanCellPhase_eq (k : PhaseIndex) :
    scanCellPhase k = BitVec.ofNat 10 (0x100 + k.toNat) := by
  apply BitVec.eq_of_toNat_eq
  rw [scanCellPhase, phase_toNat, BitVec.toNat_ofNat]
  simp
  omega

theorem decodeTokenPhase_eq (slot : PhaseIndex) :
    decodeTokenPhase slot = BitVec.ofNat 10 (0x1C0 + slot.toNat) := by
  apply BitVec.eq_of_toNat_eq
  rw [decodeTokenPhase, phase_toNat, BitVec.toNat_ofNat]
  simp
  omega

/-! ### What the named phases decode to -/

@[simp] theorem decodePhase_dispatch : decodePhase dispatchPhase = .dispatch := by decide
@[simp] theorem decodePhase_coldInit : decodePhase coldInitPhase = .coldInit := by decide
@[simp] theorem decodePhase_scanEnd : decodePhase scanEndPhase = .scanEnd := by decide
@[simp] theorem decodePhase_decodeBegin : decodePhase decodeBeginPhase = .decodeBegin := by decide
@[simp] theorem decodePhase_sleep : decodePhase sleepPhase = .sleep := by decide
@[simp] theorem decodePhase_fault : decodePhase faultPhase = .fault := by decide

@[simp] theorem decodePhase_armTimer (p : BitVec 1) :
    decodePhase (armTimerPhase p) = .armTimer p := by
  revert p
  decide

theorem decodePhase_scanCell {k : PhaseIndex} (h : k.toNat < 40) :
    decodePhase (scanCellPhase k) = .scanCell k := by
  simp [decodePhase, scanCellPhase, h]

theorem decodePhase_decodeToken {slot : PhaseIndex} (h : slot.toNat < 40) :
    decodePhase (decodeTokenPhase slot) = .decodeToken slot := by
  simp [decodePhase, decodeTokenPhase, h]

/-! ### Phases that differ -/

theorem scanCellPhase_ne (k : PhaseIndex) :
    scanCellPhase k ≠ dispatchPhase ∧ scanCellPhase k ≠ coldInitPhase ∧
      scanCellPhase k ≠ sleepPhase ∧ scanCellPhase k ≠ faultPhase := by
  refine ⟨?_, ?_, ?_, ?_⟩ <;> intro h <;> replace h := congrArg phaseKind h <;>
    simp [scanCellPhase, dispatchPhase, coldInitPhase, sleepPhase, faultPhase] at h

theorem decodeTokenPhase_ne (slot : PhaseIndex) :
    decodeTokenPhase slot ≠ dispatchPhase ∧ decodeTokenPhase slot ≠ coldInitPhase ∧
      decodeTokenPhase slot ≠ sleepPhase ∧ decodeTokenPhase slot ≠ faultPhase := by
  refine ⟨?_, ?_, ?_, ?_⟩ <;> intro h <;> replace h := congrArg phaseKind h <;>
    simp [decodeTokenPhase, dispatchPhase, coldInitPhase, sleepPhase, faultPhase] at h

namespace Machine

/-! ### The next phase -/

/-- After a token comes SLEEP or the next lower slot. -/
theorem phaseAfterToken_cases (slot : PhaseIndex) :
    (slot = 0 ∧ phaseAfterToken slot = sleepPhase) ∨
    (slot ≠ 0 ∧ phaseAfterToken slot = decodeTokenPhase (slot - 1) ∧
      (slot - 1).toNat + 1 = slot.toNat) := by
  by_cases h : slot = 0
  · exact .inl ⟨h, if_pos h⟩
  · have hn : slot.toNat ≠ 0 := fun e => h (BitVec.eq_of_toNat_eq e)
    refine .inr ⟨h, if_neg h, ?_⟩
    simp [BitVec.toNat_sub]
    omega

/-- After a cell comes SCAN_END or the next position. -/
theorem phaseAfterCell_cases {k : PhaseIndex} (hk : k.toNat < 40) :
    (k = 39 ∧ phaseAfterCell k = scanEndPhase) ∨
    (k.toNat < 39 ∧ phaseAfterCell k = scanCellPhase (k + 1) ∧ (k + 1).toNat = k.toNat + 1) := by
  by_cases h : k = 39
  · exact .inl ⟨h, if_pos h⟩
  · have hn : k.toNat ≠ 39 := fun e => h (BitVec.eq_of_toNat_eq e)
    refine .inr ⟨by omega, if_neg h, ?_⟩
    simp [BitVec.toNat_add]
    omega

end Machine
end Sys2Proof
end

