-- ==== Sys2Proof/Laws/Run.lean ====
section
/-! SUPPORT. Sequences of instructions and the observation of a run: what one more instruction or
step adds. -/

namespace Sys2Proof.Machine

@[simp] theorem execAll_nil (s : State) : execAll [] s = .next s := rfl

/-- A sequence that completes runs its first instruction to an unfaulted state, then the rest. -/
theorem execAll_cons_next {i : Instr} {is : List Instr} {s u : State}
    (h : execAll (i :: is) s = .next u) :
    ∃ t, exec i s = .next t ∧ t.ph ≠ faultPhase ∧ execAll is t = .next u := by
  rw [execAll] at h
  split at h
  · rename_i t e
    by_cases hp : t.ph = faultPhase
    · rw [if_pos hp] at h
      cases h
    · exact ⟨t, e, hp, by rwa [if_neg hp] at h⟩
  · cases h
  · cases h

theorem execAll_cons {i : Instr} {is : List Instr} {s t : State} (e : exec i s = .next t)
    (hp : t.ph ≠ faultPhase) : execAll (i :: is) s = execAll is t := by
  rw [execAll, e]
  exact if_neg hp

/-- After a first part that completes, the second part runs where it ended. -/
theorem execAll_append {is js : List Instr} {s t : State} (h : execAll is s = .next t) :
    execAll (is ++ js) s = execAll js t := by
  induction is generalizing s with
  | nil => cases h; rfl
  | cons i is ih =>
    obtain ⟨u, e, hp, h⟩ := execAll_cons_next h
    rw [List.cons_append, execAll_cons e hp]
    exact ih h

/-- What a refresh can do: its 41 steps complete, and then the decode, where it is due. -/
theorem refresh_next {s u : State} (h : refresh s = .next u) :
    ∃ t, execAll refreshSteps s = .next t ∧
      ((t.ph = decodeBeginPhase ∧ execAll decodeNextSteps t = .next u) ∨
        (t.ph ≠ decodeBeginPhase ∧ u = t)) := by
  unfold refresh at h
  generalize decodeNextSteps = d at h ⊢
  generalize execAll refreshSteps s = o at h ⊢
  cases o with
  | next t =>
    by_cases hp : t.ph = decodeBeginPhase
    · exact ⟨t, rfl, .inl ⟨hp, by simpa [hp] using h⟩⟩
    · exact ⟨t, rfl, .inr ⟨hp, by simpa [hp] using h.symm⟩⟩
  | fault f => cases h
  | refused r => cases h

/-- An operation done n + 1 times completes once, and then n times. -/
theorem repeatOp_succ_next {op : State → Host.Outcome State Fault Refusal} {n : Nat} {s u : State}
    (h : repeatOp op (n + 1) s = .next u) : ∃ t, op s = .next t ∧ repeatOp op n t = .next u := by
  rw [repeatOp] at h
  cases e : op s with
  | next t => exact ⟨t, rfl, by rwa [e] at h⟩
  | fault f => rw [e] at h; cases h
  | refused r => rw [e] at h; cases h

/-- One refresh comes before the others. -/
theorem refreshes_succ_next {n : Nat} {s u : State} (h : refreshes (n + 1) s = .next u) :
    ∃ t, refresh s = .next t ∧ refreshes n t = .next u := repeatOp_succ_next h

/-! ### The observation of a run -/

theorem observationPoint_iff (s t : State) :
    observationPoint s t = true ↔ s.ph ≠ sleepPhase ∧ t.ph = sleepPhase := by
  simp [observationPoint]

@[simp] theorem observeRun_zero (s : State) :
    observeRun 0 s = { retained := [], trace := s.trace, fault := s.fault } := rfl

/-- A step to an observation point adds its retained state in front. -/
theorem observeRun_succ_of_point {n : Nat} {s t : State} (h : step s = .next t)
    (hp : observationPoint s t = true) :
    observeRun (n + 1) s =
      { observeRun n t with retained := t.ret :: (observeRun n t).retained } := by
  simp [observeRun, h, hp]

/-- Any other step shows nothing of its own. -/
theorem observeRun_succ_of_not_point {n : Nat} {s t : State} (h : step s = .next t)
    (hp : observationPoint s t = false) : observeRun (n + 1) s = observeRun n t := by
  simp [observeRun, h, hp]

/-- A run that has stopped shows no more. -/
theorem observeRun_of_fault {n : Nat} {s : State} {f : Fault} (h : step s = .fault f) :
    observeRun n s = { retained := [], trace := s.trace, fault := s.fault } := by
  cases n <;> simp [observeRun, h]

end Sys2Proof.Machine
end

