-- ==== Sys2Proof/Laws/Step.lean ====
section
/-! SUPPORT. The step: what it can answer, what a boundary adds, and what each instruction can
answer, said once for later proofs. -/

namespace Sys2Proof.Machine

/-! ### settle -/

theorem settle_faulted {i : Instr} {s t : State} (h : t.ph = faultPhase) :
    settle i s t = { t with env := s.env.tail } := by
  simp [settle, h]

theorem settle_running {i : Instr} {s t : State} (h : t.ph ≠ faultPhase) :
    settle i s t =
      { t with
        env := s.env.tail
        time := t.time + stepCost i s
        wtCnt := if writesCount i then t.wtCnt else t.wtCnt + stepCost i s } := by
  simp [settle, h]

@[simp] theorem settle_cfg (i : Instr) (s t : State) : (settle i s t).cfg = t.cfg := rfl
@[simp] theorem settle_ret (i : Instr) (s t : State) : (settle i s t).ret = t.ret := rfl
@[simp] theorem settle_ph (i : Instr) (s t : State) : (settle i s t).ph = t.ph := rfl
@[simp] theorem settle_lines (i : Instr) (s t : State) : (settle i s t).lines = t.lines := rfl
@[simp] theorem settle_cause (i : Instr) (s t : State) : (settle i s t).cause = t.cause := rfl
@[simp] theorem settle_wtInt (i : Instr) (s t : State) : (settle i s t).wtInt = t.wtInt := rfl
@[simp] theorem settle_fault (i : Instr) (s t : State) : (settle i s t).fault = t.fault := rfl
@[simp] theorem settle_trace (i : Instr) (s t : State) : (settle i s t).trace = t.trace := rfl
@[simp] theorem settle_started (i : Instr) (s t : State) : (settle i s t).started = t.started := rfl
@[simp] theorem settle_env (i : Instr) (s t : State) : (settle i s t).env = s.env.tail := rfl
@[simp] theorem settle_draws (i : Instr) (s t : State) : (settle i s t).draws = t.draws := rfl

/-! ### step -/

/-- A step that answers a next state ran the selected instruction of a legal configuration. -/
theorem step_next {s t : State} (h : step s = .next t) :
    legal s.cfg = true ∧ ∃ u, exec (select s) s = .next u ∧ t = settle (select s) s u := by
  unfold step at h
  split at h
  · rename_i hl
    split at h <;> simp_all
  · cases h

/-- What selection can answer. -/
theorem select_cases (s : State) :
    (s.started = false ∧ select s = .powerOn) ∨
    (s.started = true ∧ s.ph = faultPhase ∧ select s = .fault) ∨
    (s.started = true ∧ s.ph ≠ faultPhase ∧ ∃ i, arrivingReset s = some i ∧ select s = i) ∨
    (s.started = true ∧ s.ph ≠ faultPhase ∧ arrivingReset s = none ∧
      timerExpires (decodePhase s.ph) s = true ∧ select s = .timeout) ∨
    (s.started = true ∧ s.ph ≠ faultPhase ∧ arrivingReset s = none ∧
      timerExpires (decodePhase s.ph) s = false ∧ select s = decodePhase s.ph) := by
  unfold select
  cases hs : s.started
  · simp
  · by_cases hp : s.ph = faultPhase
    · simp [hp]
    · cases ha : arrivingReset s with
      | some i => simp [hp]
      | none => cases ht : timerExpires (decodePhase s.ph) s <;> simp [hp]

/-- The environment asserts one of its two resets. -/
theorem arrivingReset_cases {s : State} {i : Instr} (h : arrivingReset s = some i) :
    i = .externalReset ∨ i = .otherReset := by
  unfold arrivingReset at h
  split at h
  · cases h
  · split at h
    · cases h; exact .inl rfl
    · split at h <;> cases h
      exact .inr rfl

/-! ### The instructions' next states -/

theorem execDispatch_next {s t : State} (h : execDispatch s = .next t) :
    (s.cause = 1 ∧ t = setPhase (armTimerPhase 1) s) ∨
    (s.cause ≠ 1 ∧ t = setPhase coldInitPhase s) := by
  unfold execDispatch resetCause at h
  by_cases hc : s.cause = 1
  · rw [if_pos hc] at h
    exact .inl ⟨hc, by cases h; rfl⟩
  · rw [if_neg hc] at h
    exact .inr ⟨hc, by cases h; rfl⟩

theorem execDecodeToken_next {slot : PhaseIndex} {s t : State}
    (h : execDecodeToken slot s = .next t) :
    (cellOperand slot = none ∧ t = raiseFault .illegalPhase s) ∨
    (∃ i, cellOperand slot = some i ∧ fetchToken s.cfg s.ret = none ∧
      t = raiseFault .streamOverrun s) ∨
    ∃ i tok r, cellOperand slot = some i ∧ fetchToken s.cfg s.ret = some (tok, r) ∧
      t = setPhase (phaseAfterToken slot) { s with ret := applyToken s.cfg i tok r } := by
  unfold execDecodeToken at h
  split at h
  · rename_i e
    exact .inl ⟨e, by cases h; rfl⟩
  · rename_i i e
    split at h
    · rename_i e2
      exact .inr (.inl ⟨i, e, e2, by cases h; rfl⟩)
    · rename_i tok r e2
      exact .inr (.inr ⟨i, tok, r, e, e2, by cases h; rfl⟩)

theorem execScanCell_next {k : PhaseIndex} {s t : State} (h : execScanCell k s = .next t) :
    (cellOperand k = none ∧ t = raiseFault .illegalPhase s) ∨
    ∃ pos, cellOperand k = some pos ∧
      ((readCell s.ret s.cfg.scanOrder[pos] = 0 ∧ t = setPhase (phaseAfterCell k) s) ∨
       (readCell s.ret s.cfg.scanOrder[pos] ≠ 0 ∧
        t = setPhase (phaseAfterCell k) (drivePulse pos s.cfg.scanOrder[pos]
          (readCell s.ret s.cfg.scanOrder[pos]) s))) := by
  unfold execScanCell at h
  split at h
  · rename_i e
    exact .inl ⟨e, by cases h; rfl⟩
  · rename_i pos e
    refine .inr ⟨pos, e, ?_⟩
    simp only [Host.Outcome.next.injEq] at h
    by_cases hd : readCell s.ret s.cfg.scanOrder[pos] = 0
    · exact .inl ⟨hd, by rw [if_pos hd] at h; exact h.symm⟩
    · exact .inr ⟨hd, by rw [if_neg hd] at h; exact h.symm⟩

theorem execScanEnd_next {s t : State} (h : execScanEnd s = .next t) :
    (decodeDue s = true ∧ t = setPhase decodeBeginPhase { s with ret := { s.ret with rc := 0 } }) ∨
    (decodeDue s = false ∧
      t = setPhase sleepPhase { s with ret := { s.ret with rc := nextRefreshCount s } }) := by
  unfold execScanEnd at h
  split at h
  · rename_i e
    exact .inl ⟨e, by cases h; rfl⟩
  · rename_i e
    exact .inr ⟨by simpa using e, by cases h; rfl⟩

theorem execTimeout_next {s t : State} (h : execTimeout s = .next t) :
    (s.ph = sleepPhase ∧ t = resetEntry 1 s) ∨
    (s.ph ≠ sleepPhase ∧ t = raiseFault .wakeOverrun s) := by
  unfold execTimeout at h
  split at h
  · rename_i e
    exact .inl ⟨e, by cases h; rfl⟩
  · rename_i e
    exact .inr ⟨e, by cases h; rfl⟩

/-! ### Operands and configurations -/

/-- An index operand is the number it is, where it is 0..39. -/
theorem cellOperand_some {k : PhaseIndex} {i : Fin 40} (h : cellOperand k = some i) :
    i.val = k.toNat := by
  unfold cellOperand at h
  split at h <;> cases h
  rfl

theorem cellOperand_of_lt {k : PhaseIndex} (h : k.toNat < 40) :
    cellOperand k = some ⟨k.toNat, h⟩ := by
  simp [cellOperand, h]

theorem noRepeatsAfter_iff (seen : Nat) (l : List Nat) :
    noRepeatsAfter seen l = true ↔ l.Nodup ∧ ∀ n ∈ l, seen.testBit n = false := by
  induction l generalizing seen with
  | nil => simp [noRepeatsAfter]
  | cons n l ih =>
    simp only [noRepeatsAfter, Bool.and_eq_true, Bool.not_eq_true', ih, Nat.testBit_or,
      Nat.testBit_two_pow, Bool.or_eq_false_iff, decide_eq_false_iff_not, List.nodup_cons,
      List.forall_mem_cons]
    constructor
    · rintro ⟨hn, hl, h⟩
      exact ⟨⟨fun hm => (h n hm).2 rfl, hl⟩, hn, fun m hm => (h m hm).1⟩
    · rintro ⟨⟨hn, hl⟩, hs, h⟩
      exact ⟨hs, hl, fun m hm => ⟨h m hm, fun e => hn (e ▸ hm)⟩⟩

theorem noRepeats_iff_nodup (l : List Nat) : noRepeats l = true ↔ l.Nodup := by
  simp [noRepeats, noRepeatsAfter_iff]

/-- A list of bytes never falls where no byte is less than an earlier one. -/
theorem neverFalls_iff_pairwise (l : List Byte) :
    neverFalls l = true ↔ l.Pairwise (fun a b => a.toNat ≤ b.toNat) := by
  induction l with
  | nil => simp [neverFalls]
  | cons a l ih =>
    cases l with
    | nil => simp [neverFalls]
    | cons b l =>
      rw [neverFalls, Bool.and_eq_true, decide_eq_true_eq, ih, List.pairwise_cons (a := a)]
      refine and_congr_left fun h => ⟨fun hab c hc => ?_, fun h' => h' b List.mem_cons_self⟩
      rcases List.mem_cons.1 hc with rfl | hc
      · exact hab
      · exact Nat.le_trans hab ((List.pairwise_cons.1 h).1 c hc)

end Sys2Proof.Machine
end

