-- ==== Sys2Proof/Tests/Slice0.lean ====
section
/-! SUPPORT. Tests of the model: the well-formedness smoke, words written out bit by bit from the
encodings of spec/30_encoding.md, one step at a time from the vectors of spec/95_test_vectors.md
section 3 (its example configuration is `Config.sample`), and a witness for the hypotheses of each
obligation that has some. -/

namespace Sys2Proof.Tests

open Sys2Proof.Machine

/-! ### Helpers -/

/-- The outcome is a next state with the property. -/
def answers (o : Host.Outcome State Fault Refusal) (p : State → Bool) : Bool :=
  match o with
  | .next t => p t
  | _ => false

theorem next_of_answers {o : Host.Outcome State Fault Refusal} {p : State → Bool}
    (h : answers o p = true) : ∃ t, o = .next t ∧ p t = true := by
  cases o with
  | next t => exact ⟨t, rfl, h⟩
  | fault f => cases h
  | refused r => cases h

/-- The outcome is the stop of a faulted state with this kind. -/
def sticks (o : Host.Outcome State Fault Refusal) (k : Option FaultKind) : Bool :=
  match o with
  | .fault (.stuck k') => k == k'
  | _ => false

/-- The outcome is the refusal of a configuration. -/
def refuses (o : Host.Outcome State Fault Refusal) : Bool :=
  match o with
  | .refused .illegalConfiguration => true
  | _ => false

/-- The example configuration with the stream bytes of an asset. -/
def withAsset (bytes : List Byte) (frames : BitVec 16) : Config :=
  { Config.sample with
    stream := Memory.load [] 0 bytes
    streamLen := BitVec.ofNat 16 bytes.length
    frameCount := frames }

/-- Program P1: two frames, 100 bits. -/
def p1 : Config :=
  withAsset [0x3F, 0x00, 0x00, 0x00, 0x00, 0x10, 0x06, 0x00, 0x00, 0x0C, 0x00, 0x00, 0x00] 2

/-- Program P2: one frame, 45 bits. -/
def p2 : Config := withAsset [0x29, 0x00, 0x00, 0x00, 0x00, 0x00] 1

/-- The state after reset at another phase, with another configuration. -/
def at' (c : Config) (ph : Phase) : State := { State.reset with cfg := c, ph := ph }

/-- A retained group with the reader at CUR, WB and NB. -/
def reader (cur : BitVec 16) (wb : BitVec 8) (nb : BitVec 4) : Retained :=
  { Retained.zero with cur := cur, wb := wb, nb := nb }

/-- A retained group with one cell set. -/
def oneCell (i : Fin 40) (d : Byte) : Retained := writeCell Retained.zero i d

/-- The environment asserts resets at the coming boundary. -/
def input (external other : Bool) : EnvInput :=
  { externalReset := external, otherReset := other, wait := 0 }

/-! ### Well-formed terms -/

theorem test_wf_refuses_scan_position_40 : (Instr.scanCell 40).wf = false := by decide
theorem test_wf_refuses_slot_40 : (Instr.decodeToken 40).wf = false := by decide
theorem test_wf_refuses_illegal_of_a_defined_phase : (Instr.illegal 0x040).wf = false := by decide
theorem test_wf_admits_the_last_cell_and_slot :
    (Instr.scanCell 39).wf = true ∧ (Instr.decodeToken 39).wf = true := by decide

/-! ### Words, bit by bit (R70, R77, R79) -/

theorem test_decode_dispatch : decode (.phase 0b0001000000) = .ok .dispatch := by decide
theorem test_decode_coldInit : decode (.phase 0b0010000000) = .ok .coldInit := by decide
theorem test_decode_armTimer :
    decode (.phase 0b0011000000) = .ok (.armTimer 0) ∧
    decode (.phase 0b0011000001) = .ok (.armTimer 1) := by decide
theorem test_decode_scanCell :
    decode (.phase 0b0100000000) = .ok (.scanCell 0) ∧
    decode (.phase 0b0100100111) = .ok (.scanCell 39) := by decide
theorem test_decode_scanEnd : decode (.phase 0b0101000000) = .ok .scanEnd := by decide
theorem test_decode_decodeBegin : decode (.phase 0b0110000000) = .ok .decodeBegin := by decide
theorem test_decode_decodeToken :
    decode (.phase 0b0111000000) = .ok (.decodeToken 0) ∧
    decode (.phase 0b0111100111) = .ok (.decodeToken 39) := by decide
theorem test_decode_sleep : decode (.phase 0b1000000000) = .ok .sleep := by decide
theorem test_decode_fault : decode (.phase 0b1111000000) = .ok .fault := by decide
/-- K14 to K16: kind 0, SCAN_CELL with index 40, ARM_TIMER with index 2. -/
theorem test_decode_illegal :
    decode (.phase 0b0000000000) = .ok (.illegal 0x000) ∧
    decode (.phase 0b0100101000) = .ok (.illegal 0x128) ∧
    decode (.phase 0b0011000010) = .ok (.illegal 0x0C2) := by decide
theorem test_decode_events :
    decode (.event 0b00) = .ok .powerOn ∧ decode (.event 0b01) = .ok .timeout ∧
    decode (.event 0b10) = .ok .externalReset ∧ decode (.event 0b11) = .ok .otherReset := by decide
theorem test_decode_keep : decode (.token [false]) = .ok .keep := by decide
/-- `110000` is SET 16 (vector D3), `100101` is SET 5 (program P2). -/
theorem test_decode_set :
    decode (.token [true, true, false, false, false, false]) = .ok (.set 16) ∧
    decode (.token [true, false, false, true, false, true]) = .ok (.set 5) := by decide
theorem test_decode_refuses_token_lengths :
    decode (.token []) = .error .truncatedToken ∧
    decode (.token [true, true, false]) = .error .truncatedToken ∧
    decode (.token [false, false]) = .error .trailingBits := by decide
theorem test_encode_words :
    encode (.scanCell 39) = .phase 0x127 ∧ encode (.decodeToken 39) = .phase 0x1E7 ∧
    encode (.set 16) = .token [true, true, false, false, false, false] ∧
    encode .otherReset = .event 3 := by decide
/-- Bit 0 of a stream byte is consumed first: 0x29 begins with `100101`. -/
theorem test_table_words :
    decodeTableWord 16 0x127 = some (.scanCell 39) ∧ decodeTableWord 8 0x29 = some (.set 5) ∧
    decodeTableWord 8 2 = some .externalReset ∧ decodeTableWord 8 0x04 = some .keep := by decide
/-- Program P1's frame A: S 31, K*38, S 1, packed as the spec lists its bytes. -/
theorem test_pack_frame :
    packBytes 7 (streamOfTokens (.set 31 :: List.replicate 38 .keep ++ [.set 1])) =
      [0x3F, 0x00, 0x00, 0x00, 0x00, 0x10, 0x02] := by decide

/-! ### The bit reader (vectors B1, B5, B6, B8) -/

theorem test_nextBit_refills :
    nextBit p2 Retained.zero = some (true, reader 1 0x14 7) := by decide
theorem test_nextBit_overruns_past_the_last_byte :
    nextBit (withAsset [0, 0, 0, 0x80] 1) (reader 3 0 0) = some (false, reader 4 0x40 7) ∧
    nextBit (withAsset [0, 0, 0, 0x80] 1) (reader 4 0 0) = none := by decide
theorem test_nextBits_straddles_bytes :
    nextBits (withAsset [0, 0, 0, 0, 0, 0x02] 1) 5 0 (reader 5 0x03 2) =
      some (26, reader 6 0x00 5) := by decide
theorem test_nextBits_overruns :
    nextBits (withAsset [0, 0] 1) 5 0 (reader 2 0x07 3) = none := by decide

/-! ### One step of each instruction (vectors D, S and K) -/

/-- D1, the token alone: PH is the enclosing step's to write. -/
theorem test_keep :
    answers (exec .keep
      { at' p1 0x1DB with ret := { oneCell 27 131 with wb := 0x1E, nb := 5 } })
      (fun t => t.ret.buf[27] == 131 && t.ret.nb == 4 && t.ret.wb == 0x0F && t.ph == 0x1DB) =
    true := by decide

/-- D3, the token alone. -/
theorem test_set :
    answers (exec (.set 16) { at' p1 0x1D4 with ret := reader 0 0x03 6 })
      (fun t => t.ret.buf[20] == 131 && t.ret.nb == 0 && t.ph == 0x1D4) = true := by decide

/-- K1 and K2. -/
theorem test_dispatch_cold_and_warm :
    answers (exec .dispatch (at' p1 0x040)) (fun t => t.ph == 0x080) = true ∧
    answers (exec .dispatch { at' p1 0x040 with cause := 1 }) (fun t => t.ph == 0x0C1) = true := by
  decide

/-- K3, and K4: "any other or unexpected cause". -/
theorem test_dispatch_other_causes :
    answers (exec .dispatch { at' p1 0x040 with cause := 2 }) (fun t => t.ph == 0x080) = true ∧
    answers (exec .dispatch { at' p1 0x040 with cause := 3 }) (fun t => t.ph == 0x080) = true := by
  decide

/-- K5. -/
theorem test_coldInit :
    answers (exec .coldInit
      { at' p1 0x080 with ret := { oneCell 3 7 with fc := 9, rc := 8, cur := 7, wb := 6, nb := 5 } })
      (fun t => t.ret == Retained.zero && t.ph == 0x0C0) = true := by decide

/-- K6 and K7. -/
theorem test_armTimer :
    answers (exec (.armTimer 0) { at' p1 0x0C0 with wtCnt := 2 })
      (fun t => t.wtInt == 1 && t.wtCnt == 0 && t.ph == 0x200) = true ∧
    answers (exec (.armTimer 1) (at' p1 0x0C1))
      (fun t => t.wtInt == 1 && t.wtCnt == 0 && t.ph == 0x100) = true := by decide

/-- S8: row 1 has polarity 0, so the column line is HIGH. -/
theorem test_scanCell_pulse :
    answers (exec (.scanCell 7) { at' p1 0x107 with ret := oneCell 7 131 })
      (fun t => t.ph == 0x108 &&
        t.trace == [{ k := 7, i := 7, y := 1, x := 2, hiLine := 10, loLine := 1, d := 131, on := 394 }]) =
    true := by decide

/-- S5: a dark cell gets no pulse; S10: after position 39 comes SCAN_END. -/
theorem test_scanCell_dark_and_last :
    answers (exec (.scanCell 10) (at' p1 0x10A)) (fun t => t.ph == 0x10B && t.trace == []) = true ∧
    answers (exec (.scanCell 39) { at' p1 0x127 with ret := oneCell 39 255 })
      (fun t => t.ph == 0x140 && (t.trace.map Pulse.on) == [766]) = true := by decide

/-- S11 and S12. -/
theorem test_scanEnd :
    answers (exec .scanEnd { at' p1 0x140 with ret := { Retained.zero with rc := 2 } })
      (fun t => t.ret.rc == 3 && t.ph == 0x200) = true ∧
    answers (exec .scanEnd { at' p1 0x140 with ret := { Retained.zero with rc := 3 } })
      (fun t => t.ret.rc == 0 && t.ph == 0x180) = true := by decide

/-- S14: the count wraps at 256 and is then not equal to 4. -/
theorem test_scanEnd_wraps :
    answers (exec .scanEnd { at' p1 0x140 with ret := { Retained.zero with rc := 255 } })
      (fun t => t.ret.rc == 0 && t.ph == 0x200) = true := by decide

/-- D10. -/
theorem test_decodeBegin_resets_the_loop :
    answers (exec .decodeBegin
      { at' p1 0x180 with ret := { oneCell 39 255 with fc := 2, cur := 13, nb := 4 } })
      (fun t => t.ret == { Retained.zero with fc := 1 } && t.ph == 0x1E7) = true := by decide

/-- D13: past FRAMECOUNT there is no reset. -/
theorem test_decodeBegin_past_the_count :
    answers (exec .decodeBegin { at' p1 0x180 with ret := { oneCell 39 255 with fc := 5 } })
      (fun t => t.ret == { oneCell 39 255 with fc := 6 } && t.ph == 0x1E7) = true := by decide

/-- D2. -/
theorem test_decodeToken_set :
    answers (exec (.decodeToken 39) (at' p1 0x1E7))
      (fun t => t.ret.buf[39] == 255 && t.ret.cur == 1 && t.ret.nb == 2 && t.ret.wb == 0 &&
        t.ph == 0x1E6) = true := by decide

/-- D7: the flag and the level bit already read are discarded. -/
theorem test_decodeToken_overrun :
    answers (exec (.decodeToken 33) { at' p1 0x1E1 with ret := reader 13 0x03 2 })
      (fun t => t == { at' p1 0x3C0 with
        ret := reader 13 0x03 2, fault := some .streamOverrun }) = true := by decide

/-- T1: SLEEP lasts until WT_CNT is the interval. -/
theorem test_sleep_waits :
    answers (step { at' p1 0x200 with wtInt := 1, wtCnt := 41 })
      (fun t => t.ph == 0x200 && t.wtCnt == 40000 && t.time == 39959) = true := by decide

/-- A boundary the environment sets sooner: the wait goes on. -/
theorem test_sleep_waits_on :
    answers (step { at' p1 0x200 with
      wtInt := 1, env := [{ externalReset := false, otherReset := false, wait := 5 }] })
      (fun t => t.ph == 0x200 && t.wtCnt == 5 && t.env == []) = true := by decide

/-- K17: a faulted state is stuck, whatever arrives. -/
theorem test_fault :
    sticks (step { at' p1 0x3C0 with fault := some .wakeOverrun, env := [input true true] })
      (some .wakeOverrun) = true := by decide

/-- K15 and K16. -/
theorem test_illegal :
    answers (step (at' p1 0x128)) (fun t => t.ph == 0x3C0 && t.fault == some .illegalPhase) =
      true ∧
    answers (step (at' p1 0x0C2)) (fun t => t.ph == 0x3C0 && t.fault == some .illegalPhase) =
      true := by decide

/-- K18. The draws are free values, so only what the rule fixes is looked at. -/
theorem test_powerOn :
    answers (step { at' p1 0x123 with
      started := false, fault := some .wakeOverrun, cause := 1,
      trace := [{ k := 0, i := 0, y := 0, x := 0, hiLine := 0, loLine := 8, d := 1, on := 2 }] })
      (fun t => t.ph == 0x040 && t.cause == 0 && t.fault == none && t.trace == []) = true := by
  decide

/-- K8. -/
theorem test_timeout_wakes :
    answers (exec .timeout { at' p1 0x200 with wtInt := 1, wtCnt := 40000, ret := oneCell 5 8 })
      (fun t => t == { at' p1 0x040 with cause := 1, ret := oneCell 5 8 }) = true := by decide

/-- K9. -/
theorem test_timeout_overrun :
    answers (exec .timeout { at' p1 0x105 with wtCnt := 7 })
      (fun t => t == { at' p1 0x3C0 with wtCnt := 7, fault := some .wakeOverrun }) = true := by decide

/-- K10. -/
theorem test_externalReset :
    answers (exec .externalReset { at' p1 0x112 with wtInt := 1, wtCnt := 9, ret := oneCell 17 74 })
      (fun t => t == { at' p1 0x040 with cause := 2, ret := oneCell 17 74 }) = true := by decide

/-- K11: EXTERNAL_RESET comes before the timeout, which is lost. -/
theorem test_externalReset_before_timeout :
    answers (step { at' p1 0x200 with wtInt := 1, wtCnt := 40000, env := [input true false] })
      (fun t => t.ph == 0x040 && t.cause == 2) = true := by decide

/-- K12: OTHER_RESET comes before the timeout too. -/
theorem test_otherReset_before_timeout :
    answers (step { at' p1 0x1D0 with wtInt := 1, wtCnt := 40000, env := [input false true] })
      (fun t => t.ph == 0x040 && t.cause == 3 && t.fault == none) = true := by decide

/-- K13: EXTERNAL_RESET comes before OTHER_RESET, in DISPATCH too. -/
theorem test_externalReset_before_otherReset :
    answers (step { at' p1 0x040 with cause := 1, env := [input true true] })
      (fun t => t.ph == 0x040 && t.cause == 2) = true := by decide

/-! ### The timed model, configurations, placed words -/

/-- T6: WT_CNT 64 and a cost of 767 reach the interval 800, before the step's own effects. -/
theorem test_wake_overrun :
    answers (step
      { at' { p1 with steadyInterval := 800 } 0x127 with
        wtInt := 1, wtCnt := 64, ret := oneCell 39 255 })
      (fun t => t.ph == 0x3C0 && t.fault == some .wakeOverrun && t.wtCnt == 64 && t.trace == []) =
    true := by decide

/-- T7: DEFAULT_INTERVAL 2, before COLD_INIT. -/
theorem test_wake_overrun_on_the_cold_path :
    answers (step { at' { p1 with defaultInterval := 2 } 0x080 with wtCnt := 1 })
      (fun t => t.fault == some .wakeOverrun) = true := by decide

/-- S1. -/
theorem test_example_configuration_is_legal : legal Config.sample = true := by decide

/-- S2: three duty tables that break R110. -/
theorem test_duty_tables_refused :
    refuses (step (at' { Config.sample with dutyTable := Config.sample.dutyTable.set 0 1 } 0x040)) =
      true ∧
    legal { Config.sample with dutyTable := Config.sample.dutyTable.set 31 254 } = false ∧
    legal { Config.sample with
      dutyTable := (Config.sample.dutyTable.set 10 90).set 11 89 } = false := by decide

/-- Two rows on one line, a cell scanned twice, an interval that is not the shorter one. -/
theorem test_other_configurations_refused :
    legal { Config.sample with rowLine := Config.sample.rowLine.set 3 8 } = false ∧
    legal { Config.sample with scanOrder := Config.sample.scanOrder.set 5 6 } = false ∧
    legal { Config.sample with defaultInterval := 40000 } = false := by decide

/-- T1 and program P2, points 1 and 2: the cold path, the wait, the first wake up to its dispatch. -/
theorem test_observation_of_the_cold_path :
    observeRun 6 { at' p2 0x123 with started := false, ret := oneCell 3 7 } =
      { retained := [Retained.zero], trace := [], fault := none } := by decide

/-- D6 and S10 as observed: the decode's last token is an observation point, a wait is none, and a
pulse is in TRACE. -/
theorem test_observation_points :
    observeRun 2 { at' p2 0x1C0 with wtInt := 1, ret := reader 6 0x00 1 } =
      { retained := [reader 6 0x00 0], trace := [], fault := none } ∧
    (observeRun 2 { at' p1 0x127 with wtInt := 1, ret := oneCell 39 255 }).retained =
      [{ oneCell 39 255 with rc := 1 }] ∧
    (observeRun 2 { at' p1 0x127 with wtInt := 1, ret := oneCell 39 255 }).trace.length = 1 := by
  decide

/-- Placed words run as the next step: SCAN_CELL(39), the token S 5, EXTERNAL_RESET. -/
theorem test_placed_words_run :
    answers (step (State.reset.withFetchWord 16 0x127)) (fun t => t.ph == 0x140) = true ∧
    answers (step (State.reset.withFetchWord 8 0x29)) (fun t => t.ret.buf[39] == 41) = true ∧
    answers (step (State.reset.withFetchWord 8 2)) (fun t => t.cause == 2) = true := by decide

/-! ### Witnesses: states and operands that meet an obligation's hypotheses

Each is named for its obligation. Where the hypotheses differ by clause, there is one conjunct for
each clause, at the ends of its range. -/

/-- Asleep in the steady state after the cold path, with program P1. -/
def asleep : State := { at' p1 0x200 with wtInt := 1 }

/-- About to decode the first token of program P1. -/
def atFirstToken : State :=
  { at' p1 0x1E7 with wtInt := 1, wtCnt := 42, ret := { Retained.zero with fc := 1 } }

/-- The longest pulses: every cell at 255. -/
def fullBright : Retained := { Retained.zero with buf := Vector.replicate 40 255 }

theorem witness_DecodeOfEncodeGivesInstruction :
    (Instr.scanCell 39).wf = true ∧ (Instr.decodeToken 0).wf = true ∧
    (Instr.illegal 0x128).wf = true ∧ (Instr.set 31).wf = true := by decide

theorem witness_FrameLengthCountsItsSetTokens :
    (List.replicate 40 Token.keep).length = 40 ∧
    (List.replicate 40 (Token.set 31)).length = 40 := by decide

/-- The ROM exactly long enough, and a longer one. -/
theorem witness_RoomyAssetIsWellFormed :
    (({ Config.sample with streamLen := 30 } : Config).frameCount ≠ 0 ∧
      240 * ({ Config.sample with streamLen := 30 } : Config).frameCount.toNat ≤
        8 * ({ Config.sample with streamLen := 30 } : Config).streamLen.toNat) ∧
    Config.sample.frameCount ≠ 0 ∧
      240 * Config.sample.frameCount.toNat ≤ 8 * Config.sample.streamLen.toNat := by decide

/-- B4: nothing pending, NB = 0; B3: NB = 1, the last bit; B5: NB = 0, a refill of the last byte. -/
theorem witness_NextBitTakesTheNextPendingBit :
    pendingBits (withAsset [0, 0, 0, 0x80] 1) (reader 4 0 0) = [] ∧
    pendingBits (withAsset [0, 0, 0, 0x80] 1) (reader 4 0x01 1) = true :: [] ∧
    pendingBits (withAsset [0, 0, 0, 0x80] 1) (reader 3 0 0) =
      false :: [false, false, false, false, false, false, true] ∧
    (reader 4 0 0).nb = 0 ∧ (reader 4 0x01 1).nb ≠ 0 ∧ (reader 3 0 0).nb = 0 := by decide

/-- B6, and B8 with three bits for five. -/
theorem witness_NextBitsReadsMostSignificantFirst :
    pendingBits (withAsset [0, 0, 0, 0, 0, 0x02] 1) (reader 5 0x03 2) =
      [true, true, false, true, false] ++ [false, false, false, false, false] ∧
    (pendingBits (withAsset [0, 0] 1) (reader 2 0x07 3)).length < 5 := by decide

theorem witness_KeepConsumesItsBitOnly :
    (at' p2 0x1C0).ph = BitVec.ofNat 10 (0x1C0 + (0 : Fin 40).val) ∧
    (at' p2 0x1E7).ph = BitVec.ofNat 10 (0x1C0 + (39 : Fin 40).val) ∧
    pendingBits p2 (reader 6 0x00 1) = false :: [] ∧
    pendingBits p2 (reader 6 0x00 0) = [] := by decide

/-- Exactly six bits, over two bytes, and five. -/
theorem witness_SetWritesDutyOfItsLevel :
    (at' p2 0x1C0).ph = BitVec.ofNat 10 (0x1C0 + (0 : Fin 40).val) ∧
    (at' p2 0x1E7).ph = BitVec.ofNat 10 (0x1C0 + (39 : Fin 40).val) ∧
    pendingBits p2 (reader 6 0x29 6) = [true, false, false, true, false, true] ++ [] ∧
    (pendingBits p2 (reader 6 0x09 5)).length < 6 := by decide

/-- D12, D8 and D13: FC at FRAMECOUNT = 65535, one below it, and above it. -/
theorem witness_DecodeBeginComparesResetsThenCounts :
    ({ Retained.zero with fc := 65535 } : Retained).fc =
      ({ p1 with frameCount := 65535 } : Config).frameCount ∧
    ({ Retained.zero with fc := 65534 } : Retained).fc ≠
      ({ p1 with frameCount := 65535 } : Config).frameCount ∧
    ({ Retained.zero with fc := 5 } : Retained).fc ≠ p1.frameCount := by decide

/-- The last bit of the stream, and a bit that needs a refill. -/
theorem witness_DecodeTokenKeepsOnClearFlag :
    pendingBits p2 (reader 6 0x00 1) = false :: [] ∧
    pendingBits p2 (reader 5 0x00 0) =
      false :: [false, false, false, false, false, false, false] := by decide

/-- The last six bits, and six bits over two bytes. -/
theorem witness_DecodeTokenSetsOnSetFlag :
    pendingBits p2 (reader 6 0x29 6) = true :: false :: false :: true :: false :: true :: [] ∧
    pendingBits (withAsset [0, 0x0F] 1) (reader 1 0x03 2) =
      true :: true :: true :: true :: true :: true :: [false, false, false, false] := by decide

/-- D7: two bits left; and none, one and five. -/
theorem witness_DecodeTokenOverrunDiscardsTheStep :
    pendingBits p1 (reader 13 0x00 0) = [] ∧
    (pendingBits p1 (reader 13 0x01 1) = true :: [] ∧ ([] : List Bool).length < 5) ∧
    (pendingBits p1 (reader 13 0x03 2) = true :: [true] ∧ [true].length < 5) ∧
    (pendingBits p1 (reader 13 0x1F 5) = true :: [true, true, true, true] ∧
      [true, true, true, true].length < 5) := by decide

theorem witness_DecodeTokenRunsThePendingToken :
    ∃ t, ({ at' p2 0x1E7 with ret := reader 6 0x29 6 } : State).ph =
        BitVec.ofNat 10 (0x1C0 + (39 : Fin 40).val) ∧
      pendingBits p2 (reader 6 0x29 6) = tokenBits (.set 5) ++ [] ∧
      exec (Token.set 5).toInstr { at' p2 0x1E7 with ret := reader 6 0x29 6 } = .next t := by
  obtain ⟨t, h, -⟩ := next_of_answers (p := fun _ => true)
    (show answers (exec (Token.set 5).toInstr { at' p2 0x1E7 with ret := reader 6 0x29 6 })
      (fun _ => true) = true by decide)
  exact ⟨t, by decide, by decide, h⟩

/-- Both ends of the linear range, and two values one apart. -/
theorem witness_OnTimeFollowsTheTimingRule :
    pulseTimingLegal Config.sample = true ∧ 2 ≤ (2 : Byte).toNat ∧ 2 ≤ (255 : Byte).toNat ∧
    (2 : Byte).toNat < (3 : Byte).toNat ∧ (1 : Byte) ≠ 0 := by decide

theorem witness_ScanCellPulsesLitCellsOnly :
    linesOff { at' p1 0x127 with ret := fullBright } ∧ linesOff (at' p1 0x100) := by
  unfold linesOff
  decide

theorem witness_HeldPulseDrivesOneRowAndOneColumn :
    wiringLegal (at' p1 0x107).cfg = true ∧ linesOff (at' p1 0x107) := by
  unfold linesOff
  decide

/-- S12, S13 (REFRESH_PER_FRAME = 1) and the largest divisor; S11 and S14. -/
theorem witness_ScanEndCountsTheRefresh :
    ((3 : BitVec 8) + 1 = p1.refreshPerFrame ∧
      (0 : BitVec 8) + 1 = ({ p1 with refreshPerFrame := 1 } : Config).refreshPerFrame ∧
      (254 : BitVec 8) + 1 = ({ p1 with refreshPerFrame := 255 } : Config).refreshPerFrame) ∧
    (2 : BitVec 8) + 1 ≠ p1.refreshPerFrame ∧ (255 : BitVec 8) + 1 ≠ p1.refreshPerFrame := by
  decide

theorem witness_RefreshEmitsLitCellsInScanOrder : linesOff (at' p1 0x100) := by
  unfold linesOff
  decide

theorem witness_FullBrightRefreshVisitsEveryCellOnce :
    legal ({ at' p1 0x100 with ret := fullBright } : State).cfg = true ∧
    linesOff { at' p1 0x100 with ret := fullBright } ∧
    ∀ i : Fin 40, ({ at' p1 0x100 with ret := fullBright } : State).ret.buf[i] = 255 := by
  unfold linesOff
  decide

/-- The fourth refresh and the fifth, and REFRESH_PER_FRAME = 1; one whole refresh with its decode. -/
theorem witness_DecodeFollowsEveryNthRefresh :
    p1.refreshPerFrame ≠ 0 ∧ (at' p1 0x140).ret.rc = 0 ∧ 0 < 4 ∧
    p1.refreshPerFrame.toNat ∣ 4 ∧ ¬ p1.refreshPerFrame.toNat ∣ 5 ∧
    ({ p1 with refreshPerFrame := 1 } : Config).refreshPerFrame.toNat ∣ 1 ∧
    ∃ u, refreshes 1 (at' { p2 with refreshPerFrame := 1 } 0x100) = .next u ∧
      (u.ret.buf[39] == 41) = true :=
  ⟨by decide, by decide, by decide, by decide, by decide, by decide,
    next_of_answers (p := fun u => u.ret.buf[39] == 41) (by decide +kernel)⟩

theorem witness_DispatchChoosesThePathByCause :
    ({ at' p1 0x040 with cause := 1 } : State).cause = 1 ∧
    ({ at' p1 0x040 with cause := 0 } : State).cause ≠ 1 ∧
    ({ at' p1 0x040 with cause := 2 } : State).cause ≠ 1 ∧
    ({ at' p1 0x040 with cause := 3 } : State).cause ≠ 1 := by decide

/-- Sleeping on, and each of the three resets. -/
theorem witness_SleepIsLeftOnlyByAReset :
    asleep.started = true ∧ asleep.ph = 0x200 ∧
    (∃ t, step asleep = .next t ∧ (t.ph == 0x200) = true) ∧
    (∃ t, step { asleep with wtCnt := 40000 } = .next t ∧ (t.cause == 1) = true) ∧
    (∃ t, step { asleep with env := [input true false] } = .next t ∧ (t.cause == 2) = true) ∧
    ∃ t, step { asleep with env := [input false true] } = .next t ∧ (t.cause == 3) = true :=
  ⟨by decide, by decide, next_of_answers (p := fun t => t.ph == 0x200) (by decide),
    next_of_answers (p := fun t => t.cause == 1) (by decide),
    next_of_answers (p := fun t => t.cause == 2) (by decide),
    next_of_answers (p := fun t => t.cause == 3) (by decide)⟩

theorem witness_TimeoutWakesASleepingBlock :
    asleep.ph = 0x200 ∧ (at' p1 0x105).ph ≠ 0x200 ∧ (at' p1 0x201).ph ≠ 0x200 := by decide

theorem witness_FaultedStateIsStuck :
    legal (at' p1 0x3C0).cfg = true ∧ (at' p1 0x3C0).started = true ∧ (at' p1 0x3C0).ph = 0x3C0 := by
  decide

/-- Reserved kinds and the first and last reserved index, and terms outside the table. -/
theorem witness_ReservedPhaseRaisesIllegalPhase :
    legal (at' p1 0x000).cfg = true ∧ (at' p1 0x000).started = true ∧
    arrivingReset (at' p1 0x000) = none ∧ phaseDefined (at' p1 0x000).ph = false ∧
    phaseDefined (at' p1 0x128).ph = false ∧ phaseDefined (at' p1 0x0C2).ph = false ∧
    phaseDefined (at' p1 0x3FF).ph = false ∧
    40 ≤ (40 : PhaseIndex).toNat ∧ 40 ≤ (63 : PhaseIndex).toNat := by decide

theorem witness_StepRunsTheDecodedInstruction :
    legal (at' p1 0x127).cfg = true ∧ (at' p1 0x127).started = true ∧ (at' p1 0x127).ph ≠ 0x3C0 ∧
    arrivingReset (at' p1 0x127) = none ∧ decodePhase (at' p1 0x127).ph = .scanCell 39 ∧
    timerExpires (.scanCell 39) (at' p1 0x127) = false := by decide

/-- Both resets at once before power is applied, EXTERNAL_RESET with OTHER_RESET, OTHER_RESET. -/
theorem witness_ResetEventsTakePriority :
    legal p1 = true ∧
    (({ asleep with started := false, env := [input true true] } : State).env =
        input true true :: [] ∧
      ({ asleep with started := false, env := [input true true] } : State).started = false) ∧
    (asleep.started = true ∧ asleep.ph ≠ 0x3C0 ∧ (input true true).externalReset = true) ∧
    (input false true).externalReset = false ∧ (input false true).otherReset = true := by decide

/-- T6 with the interval the pulse just reaches, and one cycle longer. -/
theorem witness_TimerExpiryWithinAStepFaults :
    let s := ({ at' { p1 with steadyInterval := 831 } 0x127 with
      wtInt := 1, wtCnt := 64, ret := oneCell 39 255 } : State)
    let u := ({ s with cfg := { p1 with steadyInterval := 832 } } : State)
    (legal s.cfg = true ∧ s.started = true ∧ arrivingReset s = none ∧ phaseDefined s.ph = true ∧
      s.ph ≠ 0x3C0 ∧ s.ph ≠ 0x200 ∧
      interval s ≤ s.wtCnt + stepCost (decodePhase s.ph) s) ∧
    legal u.cfg = true ∧ u.wtCnt + stepCost (decodePhase u.ph) u < interval u := by decide

/-- Right after arming, and one cycle before the timeout. -/
theorem witness_SleepWaitsOutTheInterval :
    legal asleep.cfg = true ∧ asleep.started = true ∧ asleep.env = [] ∧ asleep.ph = 0x200 ∧
    asleep.wtCnt < interval asleep ∧
    ({ asleep with wtCnt := 39999 } : State).wtCnt < interval { asleep with wtCnt := 39999 } := by
  decide

/-- KEEP with one bit in WB and with none; SET with six bits in WB and with five; cells of duty 0, 1,
2 and 255; FC at FRAMECOUNT and past it. -/
theorem witness_StepCostsFollowTheCostTable :
    pendingBits p2 (reader 6 0x00 1) = false :: [] ∧
    pendingBits p2 (reader 5 0x00 0) =
      false :: [false, false, false, false, false, false, false] ∧
    ([false, false, true, false, true].length = 5 ∧
      pendingBits p2 (reader 6 0x29 6) = true :: [false, false, true, false, true] ++ []) ∧
    ([true, true, true, true, false].length = 5 ∧
      pendingBits p2 (reader 5 0x1F 5) =
        true :: [true, true, true, true, false] ++
          [false, false, false, false, false, false, false]) ∧
    ((oneCell 0 0).buf[p1.scanOrder[(0 : Fin 40)]] = 0 ∧
      (oneCell 39 1).buf[p1.scanOrder[(39 : Fin 40)]] = 1 ∧
      2 ≤ ((oneCell 0 2).buf[p1.scanOrder[(0 : Fin 40)]]).toNat ∧
      2 ≤ ((oneCell 39 255).buf[p1.scanOrder[(39 : Fin 40)]]).toNat) ∧
    ({ Retained.zero with fc := 2 } : Retained).fc = p1.frameCount ∧
    ({ Retained.zero with fc := 3 } : Retained).fc ≠ p1.frameCount := by decide

theorem witness_OnlyIllegalConfigurationsAreRefused :
    legal { Config.sample with dutyTable := Config.sample.dutyTable.set 0 1 } = false ∧
    legal Config.sample = true := by decide

theorem witness_ConfigurationIsNeverWritten : ∃ t, step State.reset = .next t ∧ true = true :=
  next_of_answers (p := fun _ => true) (by decide)

/-- One step for each column of R41. -/
theorem witness_RegistersAreWrittenOnlyByTheirColumn :
    (∃ t, exec (.set 16) { at' p1 0x1D4 with ret := reader 0 0x03 6 } = .next t ∧
      (t.ret.buf != Retained.zero.buf && t.ret.nb != 6 && t.ret.wb != 0x03) = true) ∧
    (∃ t, exec (.decodeToken 39) (at' p1 0x1E7) = .next t ∧ (t.ret.cur != 0) = true) ∧
    (∃ t, exec .decodeBegin (at' p1 0x180) = .next t ∧ (t.ret.fc != 0) = true) ∧
    (∃ t, exec .scanEnd (at' p1 0x140) = .next t ∧ (t.ret.rc != 0) = true) ∧
    (∃ t, exec .timeout { asleep with lines := (at' p1 0).lines.set 0 .high } = .next t ∧
      (t.lines != (at' p1 0).lines.set 0 .high && t.cause != 0 && t.wtInt != 1) = true) ∧
    (∃ t, exec (.armTimer 0) { at' p1 0x0C0 with wtCnt := 2 } = .next t ∧
      (t.wtInt != 0 && t.wtCnt != 2) = true) ∧
    (∃ t, exec .keep (at' p1 0x040) = .next t ∧ (t.ph == 0x3C0) = true) ∧
    ∃ t, exec (.scanCell 0) { at' p1 0x100 with ret := fullBright } = .next t ∧
      (t.trace != []) = true :=
  ⟨next_of_answers (p := fun t =>
      t.ret.buf != Retained.zero.buf && t.ret.nb != 6 && t.ret.wb != 0x03) (by decide),
    next_of_answers (p := fun t => t.ret.cur != 0) (by decide),
    next_of_answers (p := fun t => t.ret.fc != 0) (by decide),
    next_of_answers (p := fun t => t.ret.rc != 0) (by decide),
    next_of_answers (p := fun t =>
      t.lines != (at' p1 0).lines.set 0 .high && t.cause != 0 && t.wtInt != 1) (by decide),
    next_of_answers (p := fun t => t.wtInt != 0 && t.wtCnt != 2) (by decide),
    next_of_answers (p := fun t => t.ph == 0x3C0) (by decide),
    next_of_answers (p := fun t => t.trace != []) (by decide)⟩

/-- With no fault recorded, and (in no reachable state) with one. -/
theorem witness_TraceGrowsAndFaultsStay :
    asleep.started = true ∧ (∃ t, step asleep = .next t ∧ true = true) ∧
    ({ asleep with fault := some .wakeOverrun } : State).fault ≠ none ∧
    ∃ t, step { asleep with fault := some .wakeOverrun } = .next t ∧ true = true :=
  ⟨by decide, next_of_answers (p := fun _ => true) (by decide), by decide,
    next_of_answers (p := fun _ => true) (by decide)⟩

/-- A step that raises a fault, one that does not, and POWER_ON out of any state. -/
theorem witness_FaultIsRecordedExactlyInTheFaultedPhase :
    (((at' p1 0x128).started = true → ((at' p1 0x128).fault ≠ none ↔ (at' p1 0x128).ph = 0x3C0)) ∧
      ∃ t, step (at' p1 0x128) = .next t ∧ (t.ph == 0x3C0) = true) ∧
    ((asleep.started = true → (asleep.fault ≠ none ↔ asleep.ph = 0x3C0)) ∧
      ∃ t, step asleep = .next t ∧ (t.ph == 0x200) = true) ∧
    ∃ t, step { at' p1 0x3C0 with started := false } = .next t ∧ (t.ph == 0x040) = true :=
  ⟨⟨by decide, next_of_answers (p := fun t => t.ph == 0x3C0) (by decide)⟩,
    ⟨by decide, next_of_answers (p := fun t => t.ph == 0x200) (by decide)⟩,
    next_of_answers (p := fun t => t.ph == 0x040) (by decide)⟩

theorem runInv_atFirstToken : RunInv atFirstToken := by
  unfold RunInv linesOff retainedUnread retainedInRange
  decide

theorem runInv_asleep : RunInv { asleep with wtCnt := 40000 } := by
  unfold RunInv linesOff retainedUnread retainedInRange
  decide

theorem position_atFirstToken : PositionInv atFirstToken := by
  right
  exact ⟨by decide, fun _ _ => by decide, 0, by decide, by unfold readerAt; decide⟩

theorem position_asleep : PositionInv { asleep with wtCnt := 40000 } := by
  right
  refine ⟨by decide, fun slot h => ?_, 0, by decide, by unfold readerAt; decide⟩
  cases (show decodePhase 0x200 = .sleep by decide).symm.trans h

theorem budget_atFirstToken : BudgetInv atFirstToken := by
  show _ ∧ _
  exact ⟨by decide, 0, by decide, by decide⟩

theorem budget_p1 : TimingBudgetOk p1 ∧ OverrunWithinBudget p1 := by
  unfold TimingBudgetOk OverrunWithinBudget
  decide

/-- In a decode, where the retained group is in range, and before COLD_INIT, where it may be
anything. -/
theorem witness_StepKeepsTheRunInvariant :
    legal atFirstToken.cfg = true ∧ RunInv atFirstToken ∧
    (∃ t, step atFirstToken = .next t ∧ (t.ph == 0x1E6) = true) ∧
    RunInv { at' p1 0x080 with ret := { fullBright with nb := 15 } } := by
  refine ⟨by decide, runInv_atFirstToken, next_of_answers (p := fun t => t.ph == 0x1E6) (by decide),
    ?_⟩
  unfold RunInv linesOff retainedUnread retainedInRange
  decide

theorem witness_StepKeepsTheFramePosition :
    legal atFirstToken.cfg = true ∧ PositionInv atFirstToken ∧
    ∃ t, step atFirstToken = .next t ∧ (t.ret.buf[39] == 255) = true :=
  ⟨by decide, position_atFirstToken, next_of_answers (p := fun t => t.ret.buf[39] == 255) (by decide)⟩

theorem witness_WellFormedAssetIsNeverOverrun :
    assetWellFormed atFirstToken.cfg = true ∧ PositionInv atFirstToken ∧
    atFirstToken.fault ≠ some .streamOverrun ∧
    ∃ t, step atFirstToken = .next t ∧ (t.ret.cur == 1) = true :=
  ⟨by decide, position_atFirstToken, by decide,
    next_of_answers (p := fun t => t.ret.cur == 1) (by decide)⟩

theorem witness_TimingBudgetExcludesWakeOverrun :
    legal atFirstToken.cfg = true ∧ TimingBudgetOk atFirstToken.cfg ∧
    OverrunWithinBudget atFirstToken.cfg ∧ RunInv atFirstToken ∧ BudgetInv atFirstToken ∧
    atFirstToken.fault ≠ some .wakeOverrun ∧
    ∃ t, step atFirstToken = .next t ∧ (t.wtCnt == 44) = true :=
  ⟨by decide, budget_p1.1, budget_p1.2, runInv_atFirstToken, budget_atFirstToken, by decide,
    next_of_answers (p := fun t => t.wtCnt == 44) (by decide)⟩

theorem witness_TimedStepRefinesUntimedStep :
    legal atFirstToken.cfg = true ∧ TimingBudgetOk atFirstToken.cfg ∧
    OverrunWithinBudget atFirstToken.cfg ∧ RunInv atFirstToken ∧ BudgetInv atFirstToken ∧
    ∃ t, step atFirstToken = .next t ∧ (t.ph == 0x1E6) = true :=
  ⟨by decide, budget_p1.1, budget_p1.2, runInv_atFirstToken, budget_atFirstToken,
    next_of_answers (p := fun t => t.ph == 0x1E6) (by decide)⟩

theorem witness_ClockAndTimerAdvanceTogether :
    (∃ t, step asleep = .next t ∧ (t.wtCnt == 40000) = true) ∧
    writesCount (select asleep) = false ∧ asleep.ph = 0x200 ∧ asleep.wtCnt ≤ interval asleep :=
  ⟨next_of_answers (p := fun t => t.wtCnt == 40000) (by decide), by decide, by decide, by decide⟩

theorem witness_ColdPathEndsAsleepAndZeroed :
    legal (at' p1 0x040).cfg = true ∧ TimingBudgetOk (at' p1 0x040).cfg ∧
    (at' p1 0x040).started = true ∧ (at' p1 0x040).env = [] ∧ (at' p1 0x040).ph = 0x040 ∧
    (at' p1 0x040).cause ≠ 1 ∧ (at' p1 0x040).wtInt = 0 ∧ (at' p1 0x040).wtCnt = 0 :=
  ⟨by decide, budget_p1.1, by decide, by decide, by decide, by decide, by decide, by decide⟩

/-- Every kind of state that goes on, each of the three steps that enter SLEEP, and a run's start. -/
theorem witness_RunIsObservedWhereItEntersSleep :
    (legal p1 = true ∧ (at' p1 0x128).started = true ∧ (at' p1 0x128).ph ≠ 0x3C0) ∧
    (∃ t, step (at' p1 0x0C0) = .next t ∧ observationPoint (at' p1 0x0C0) t = true) ∧
    (∃ t, step { at' p1 0x140 with wtInt := 1 } = .next t ∧
      observationPoint { at' p1 0x140 with wtInt := 1 } t = true) ∧
    (∃ t, step { at' p2 0x1C0 with ret := reader 6 0x00 1 } = .next t ∧
      observationPoint { at' p2 0x1C0 with ret := reader 6 0x00 1 } t = true) ∧
    runStarts { at' p1 0x3C0 with started := false, fault := some .illegalPhase } ∧
    TimingBudgetOk p1 ∧ State.reset.env = [] :=
  ⟨by decide, next_of_answers (p := fun t => observationPoint (at' p1 0x0C0) t) (by decide),
    next_of_answers
      (p := fun t => observationPoint { at' p1 0x140 with wtInt := 1 } t) (by decide),
    next_of_answers
      (p := fun t => observationPoint { at' p2 0x1C0 with ret := reader 6 0x00 1 } t) (by decide),
    ⟨by decide, rfl⟩, budget_p1.1, by decide⟩

/-- The frame of program P2, at the start of its stream. -/
theorem witness_FrameDecodeAppliesEachToken :
    (Token.set 5 :: List.replicate 39 Token.keep).length = 40 ∧
    pendingBits p2 Retained.zero =
      streamOfTokens (Token.set 5 :: List.replicate 39 Token.keep) ++ [false, false, false] := by
  decide

/-- Program P2, FRAMECOUNT = 1: call 1, and call 1 + m for m = 0. -/
theorem witness_DecoderRepeatsAfterFrameCountCalls :
    (at' p2 0x180).cfg.frameCount ≠ 0 ∧ (at' p2 0x180).ret = Retained.zero ∧
    (∃ u, decodeCalls p2.frameCount.toNat (at' p2 0x180) = .next u ∧ (u.ret.cur == 6) = true) ∧
    ∃ v, decodeCalls (1 + 0) (at' p2 0x180) = .next v ∧ (v.ret.nb == 3) = true :=
  ⟨by decide, by decide, next_of_answers (p := fun u => u.ret.cur == 6) (by decide),
    next_of_answers (p := fun v => v.ret.nb == 3) (by decide)⟩

theorem witness_RefreshPeriodIsConstant :
    let s := ({ asleep with wtCnt := 40000 } : State)
    legal s.cfg = true ∧ TimingBudgetOk s.cfg ∧ assetWellFormed s.cfg = true ∧ RunInv s ∧
    PositionInv s ∧ s.started = true ∧ s.env = [] ∧ s.ph = 0x200 ∧ s.wtInt = 1 ∧
    s.wtCnt = interval s :=
  ⟨by decide, budget_p1.1, by decide, runInv_asleep, position_asleep, by decide, by decide,
    by decide, by decide, by decide⟩

end Sys2Proof.Tests
end

section
/-! SUPPORT. The phase register read back: every value of PH is the word of the instruction it
decodes to, so that a selected instruction says what PH is (spec/30_encoding.md R77, R78). -/

namespace Sys2Proof

/-- A value of PH is its kind and its index. -/
theorem phase_kind_index (ph : Phase) : phase (phaseKind ph) (phaseIndex ph) = ph := by
  apply BitVec.eq_of_toNat_eq
  rw [phase_toNat, phaseKind, phaseIndex, BitVec.extractLsb'_toNat, BitVec.extractLsb'_toNat,
    Nat.shiftRight_eq_div_pow]
  omega

/-- PH from the number of its kind and from its index. -/
theorem phase_of_fields {ph : Phase} {k : PhaseKind} {i : PhaseIndex}
    (hk : (phaseKind ph).toNat = k.toNat) (hi : phaseIndex ph = i) : phase k i = ph := by
  rw [← BitVec.eq_of_toNat_eq hk, ← hi, phase_kind_index]

/-- The one-bit operand of ARM_TIMER is the whole index. -/
theorem armTimer_operand {i : PhaseIndex} (h : i.toNat < 2) :
    i = (i.setWidth 1 : BitVec 1).setWidth 6 := by
  apply BitVec.eq_of_toNat_eq
  simp only [BitVec.toNat_setWidth]
  omega

/-- A row of `decodePhase` encodes back: its own word under its condition on the index, and
otherwise the reserved value itself. -/
theorem encode_row {c : Prop} [Decidable c] {i : Instr} {w ph : Phase} (hw : encode i = .phase w)
    (h : c → w = ph) : encode (if c then i else .illegal ph) = .phase ph := by
  split
  · rename_i hc
    rw [hw, h hc]
  · rfl

/-- Every value of PH is the word of the instruction it decodes to. -/
theorem encode_decodePhase (ph : Phase) : encode (decodePhase ph) = .phase ph := by
  unfold decodePhase
  dsimp only
  split
  case h_1 hk => exact encode_row rfl (phase_of_fields hk)
  case h_2 hk => exact encode_row rfl (phase_of_fields hk)
  case h_3 hk => exact encode_row rfl fun hi => phase_of_fields hk (armTimer_operand hi)
  case h_4 hk => exact encode_row rfl fun _ => phase_of_fields hk rfl
  case h_5 hk => exact encode_row rfl (phase_of_fields hk)
  case h_6 hk => exact encode_row rfl (phase_of_fields hk)
  case h_7 hk => exact encode_row rfl fun _ => phase_of_fields hk rfl
  case h_8 hk => exact encode_row rfl (phase_of_fields hk)
  case h_9 hk => exact encode_row rfl (phase_of_fields hk)
  case h_10 => rfl

/-! ### Values that R77 defines -/

theorem phaseDefined_armTimer (p : BitVec 1) : phaseDefined (armTimerPhase p) = true := by
  revert p
  decide

theorem phaseDefined_scanCell {k : PhaseIndex} (hk : k.toNat < 40) :
    phaseDefined (scanCellPhase k) = true := by
  have hkind : (scanCellPhase k).toNat / 64 = 4 := by
    rw [scanCellPhase, phase_toNat]; simp; omega
  have hindex : (scanCellPhase k).toNat % 64 = k.toNat := by
    rw [scanCellPhase, phase_toNat]; simp; omega
  simp [phaseDefined, hkind, hindex, hk]

theorem phaseDefined_decodeToken {slot : PhaseIndex} (hs : slot.toNat < 40) :
    phaseDefined (decodeTokenPhase slot) = true := by
  have hkind : (decodeTokenPhase slot).toNat / 64 = 7 := by
    rw [decodeTokenPhase, phase_toNat]; simp; omega
  have hindex : (decodeTokenPhase slot).toNat % 64 = slot.toNat := by
    rw [decodeTokenPhase, phase_toNat]; simp; omega
  simp [phaseDefined, hkind, hindex, hs]

end Sys2Proof
end

section
/-! SUPPORT. What each instruction's next state is, where Laws/Step.lean does not say it, and the
three ways any instruction can go on: it raises a fault, it is POWER_ON, or it advances the run
(spec/60_exceptions.md R151, spec/42_controller.md R131). -/

namespace Sys2Proof.Machine

/-! ### The instructions' next states -/

theorem execKeep_next {s t : State} (h : execKeep s = .next t) :
    (∃ k, t = raiseFault k s) ∨
    ∃ b r, nextBit s.cfg s.ret = some (b, r) ∧ t = { s with ret := r } := by
  unfold execKeep at h
  split at h
  · cases h; exact .inl ⟨_, rfl⟩
  · split at h
    · cases h; exact .inl ⟨_, rfl⟩
    · rename_i b r e
      cases h
      exact .inr ⟨b, r, e, rfl⟩

theorem execSet_next {l : Level} {s t : State} (h : execSet l s = .next t) :
    (∃ k, t = raiseFault k s) ∨
    ∃ slot v r, nextBits s.cfg 6 0 s.ret = some (v, r) ∧
      t = { s with ret := writeCell r slot (dutyOf s.cfg l) } := by
  unfold execSet at h
  split at h
  · cases h; exact .inl ⟨_, rfl⟩
  · rename_i slot _
    split at h
    · cases h; exact .inl ⟨_, rfl⟩
    · rename_i v r e
      cases h
      exact .inr ⟨slot, v, r, e, rfl⟩

/-- DECODE_BEGIN counts the frame on top of a group whose FC is not FRAMECOUNT, or of one it has
just rewound. -/
theorem execDecodeBegin_next {s t : State} (h : execDecodeBegin s = .next t) :
    ∃ r, (s.ret.fc = s.cfg.frameCount ∧ r = rewind s.ret ∨
        s.ret.fc ≠ s.cfg.frameCount ∧ r = s.ret) ∧
      t = setPhase (decodeTokenPhase 39) { s with ret := { r with fc := r.fc + 1 } } := by
  cases h
  refine ⟨_, ?_, rfl⟩
  by_cases hf : s.ret.fc = s.cfg.frameCount
  · exact .inl ⟨hf, if_pos (beq_iff_eq.2 hf)⟩
  · exact .inr ⟨hf, if_neg fun h => hf (beq_iff_eq.1 h)⟩

/-! ### Three ways to go on -/

/-- What an instruction does that raises no fault and is not POWER_ON: it records no fault, enters
no faulted phase, and emits at most one pulse. -/
structure Advances (s t : State) : Prop where
  cfg : t.cfg = s.cfg
  fault : t.fault = s.fault
  started : t.started = s.started
  ph : t.ph = s.ph ∨ t.ph ≠ faultPhase
  trace : ∃ new, t.trace = s.trace ++ new ∧ new.length ≤ 1

/-- Writing the retained group and the timer alone advances the run. -/
theorem advances_of_writes (r : Retained) (wtInt : BitVec 1) (wtCnt : Nat) (s : State) :
    Advances s { s with ret := r, wtInt := wtInt, wtCnt := wtCnt } :=
  ⟨rfl, rfl, rfl, .inl rfl, [], (List.append_nil _).symm, by simp⟩

theorem advances_withRet (r : Retained) (s : State) : Advances s { s with ret := r } :=
  advances_of_writes r s.wtInt s.wtCnt s

theorem advances_refl (s : State) : Advances s s := advances_withRet s.ret s

theorem advances_drivePulse (k i : Fin 40) (d : Byte) (s : State) :
    Advances s (drivePulse k i d s) :=
  ⟨rfl, rfl, rfl, .inl rfl, _, rfl, by simp⟩

theorem advances_resetEntry (c : EventCode) (s : State) : Advances s (resetEntry c s) :=
  ⟨rfl, rfl, rfl, .inr (show dispatchPhase ≠ faultPhase by decide), [], (List.append_nil _).symm,
    by simp⟩

/-- Going on to a phase that is not the faulted one still advances the run. -/
theorem Advances.then_setPhase {ph : Phase} {s u : State} (h : Advances s u)
    (hph : ph ≠ faultPhase) : Advances s (setPhase ph u) :=
  { h with ph := .inr hph }

theorem phaseAfterToken_ne_fault (slot : PhaseIndex) : phaseAfterToken slot ≠ faultPhase := by
  rcases phaseAfterToken_cases slot with ⟨-, e⟩ | ⟨-, e, -⟩ <;> rw [e]
  · decide
  · exact (decodeTokenPhase_ne _).2.2.2

theorem phaseAfterCell_ne_fault {k : PhaseIndex} (hk : k.toNat < 40) :
    phaseAfterCell k ≠ faultPhase := by
  rcases phaseAfterCell_cases hk with ⟨-, e⟩ | ⟨-, e, -⟩ <;> rw [e]
  · decide
  · exact (scanCellPhase_ne _).2.2.2

/-- An index operand that names a cell is less than 40. -/
theorem lt_of_cellOperand_some {k : PhaseIndex} {i : Fin 40} (h : cellOperand k = some i) :
    k.toNat < 40 := cellOperand_some h ▸ i.isLt

theorem execScanCell_ways {k : PhaseIndex} {s t : State} (h : execScanCell k s = .next t) :
    (∃ kind, t = raiseFault kind s) ∨ Advances s t := by
  rcases execScanCell_next h with ⟨-, rfl⟩ | ⟨pos, hpos, ⟨-, rfl⟩ | ⟨-, rfl⟩⟩
  · exact .inl ⟨_, rfl⟩
  all_goals have hph := phaseAfterCell_ne_fault (lt_of_cellOperand_some hpos)
  · exact .inr ((advances_refl s).then_setPhase hph)
  · exact .inr ((advances_drivePulse _ _ _ s).then_setPhase hph)

/-- Whatever instruction gives a next state has raised a fault, is POWER_ON, or advances the
run. -/
theorem exec_ways {i : Instr} {s t : State} (h : exec i s = .next t) :
    (∃ kind, t = raiseFault kind s) ∨ (i = .powerOn ∧ execPowerOn s = .next t) ∨ Advances s t := by
  cases i with
  | keep =>
    rcases execKeep_next h with hf | ⟨_, r, -, rfl⟩
    · exact .inl hf
    · exact .inr (.inr (advances_withRet r s))
  | set l =>
    rcases execSet_next h with hf | ⟨_, _, _, -, rfl⟩
    · exact .inl hf
    · exact .inr (.inr (advances_withRet _ s))
  | dispatch =>
    rcases execDispatch_next h with ⟨-, rfl⟩ | ⟨-, rfl⟩ <;>
      exact .inr (.inr ((advances_refl s).then_setPhase (by decide)))
  | coldInit => cases h; exact .inr (.inr ((advances_withRet _ s).then_setPhase (by decide)))
  | armTimer p =>
    cases h
    refine .inr (.inr ((advances_of_writes s.ret 1 0 s).then_setPhase ?_))
    split <;> decide
  | scanCell k => exact (execScanCell_ways h).imp_right .inr
  | scanEnd =>
    rcases execScanEnd_next h with ⟨-, rfl⟩ | ⟨-, rfl⟩ <;>
      exact .inr (.inr ((advances_withRet _ s).then_setPhase (by decide)))
  | decodeBegin =>
    obtain ⟨r, -, rfl⟩ := execDecodeBegin_next h
    exact .inr (.inr ((advances_withRet _ s).then_setPhase (by decide)))
  | decodeToken slot =>
    rcases execDecodeToken_next h with ⟨-, rfl⟩ | ⟨_, -, -, rfl⟩ | ⟨_, _, _, -, -, rfl⟩
    · exact .inl ⟨_, rfl⟩
    · exact .inl ⟨_, rfl⟩
    · exact .inr (.inr ((advances_withRet _ s).then_setPhase (phaseAfterToken_ne_fault slot)))
  | sleep => cases h; exact .inr (.inr (advances_refl s))
  | fault => cases h
  | illegal ph => cases h; exact .inl ⟨_, rfl⟩
  | powerOn => exact .inr (.inl ⟨rfl, h⟩)
  | timeout =>
    rcases execTimeout_next h with ⟨-, rfl⟩ | ⟨-, rfl⟩
    · exact .inr (.inr (advances_resetEntry 1 s))
    · exact .inl ⟨_, rfl⟩
  | externalReset => cases h; exact .inr (.inr (advances_resetEntry 2 s))
  | otherReset => cases h; exact .inr (.inr (advances_resetEntry 3 s))

end Sys2Proof.Machine
end

section
/-! SUPPORT. The state invariant of R40 and R182: what keeps its three parts (the lines, the ranges
of the retained group, the phase), that each event and each step keeps it, and the state after
reset (spec/10_state.md R38, R40). -/

namespace Sys2Proof.Machine

/-! ### The lines -/

theorem linesOff_of_replicate {s : State} (h : s.lines = Vector.replicate 13 .off) :
    linesOff s := by
  intro l
  simp [h]

/-- A pulse leaves both its lines OFF and drives no other line (R114). -/
theorem linesOff_drivePulse {s : State} (h : linesOff s) (k i : Fin 40) (d : Byte) :
    linesOff (drivePulse k i d s) := by
  intro l
  have hl : s.lines[l.val] = .off := h l
  simp only [drivePulse_lines, Fin.getElem_fin, Vector.getElem_set, hl]
  split_ifs <;> rfl

/-! ### The retained group -/

theorem legal_counts_pos {c : Config} (h : legal c = true) :
    0 < c.frameCount.toNat ∧ 0 < c.refreshPerFrame.toNat := by
  simp only [legal, rangesLegal, Bool.and_eq_true, bne_iff_ne, ne_eq] at h
  obtain ⟨⟨_, ⟨⟨⟨hf, hr⟩, _⟩, _⟩, _⟩, _⟩ := h
  constructor <;> bv_omega

theorem zero_inRange {c : Config} (h : legal c = true) : retainedInRange c Retained.zero := by
  refine ⟨(legal_counts_pos h).2, Nat.zero_le _, by decide, by decide, Nat.zero_le _, fun i => ?_⟩
  simp [Retained.zero]

theorem rewind_inRange {c : Config} {r : Retained} (h : retainedInRange c r) :
    retainedInRange c (rewind r) := by
  obtain ⟨hrc, -⟩ := h
  refine ⟨hrc, Nat.zero_le _, Nat.zero_le _, Nat.zero_lt_one, Nat.zero_le _, fun i => ?_⟩
  simp

/-- Counting a frame that is not yet the last keeps FC within FRAMECOUNT. -/
theorem countFrame_inRange {c : Config} {r : Retained} (h : retainedInRange c r)
    (hne : r.fc ≠ c.frameCount) : retainedInRange c { r with fc := r.fc + 1 } := by
  obtain ⟨hrc, hfc, hrest⟩ := h
  refine ⟨hrc, ?_, hrest⟩
  have hne' : r.fc.toNat ≠ c.frameCount.toNat := fun e => hne (BitVec.eq_of_toNat_eq e)
  bv_omega

/-- Any refresh count below REFRESH_PER_FRAME is in range. -/
theorem setRefreshCount_inRange {c : Config} {r : Retained} {n : BitVec 8}
    (h : retainedInRange c r) (hn : n.toNat < c.refreshPerFrame.toNat) :
    retainedInRange c { r with rc := n } := ⟨hn, h.2⟩

/-- The refresh count that is not yet due stays below REFRESH_PER_FRAME. -/
theorem nextRefreshCount_lt {s : State} (h : retainedInRange s.cfg s.ret)
    (hdue : decodeDue s = false) :
    (nextRefreshCount s).toNat < s.cfg.refreshPerFrame.toNat := by
  obtain ⟨hrc, -⟩ := h
  have hne : (s.ret.rc + 1).toNat ≠ s.cfg.refreshPerFrame.toNat := fun e =>
    ne_of_beq_false hdue (BitVec.eq_of_toNat_eq e)
  unfold nextRefreshCount
  bv_omega

theorem writeCell_inRange {c : Config} {r : Retained} (h : retainedInRange c r) (i : Fin 40)
    (l : Level) : retainedInRange c (writeCell r i (dutyOf c l)) := by
  obtain ⟨hrc, hfc, hnb, hwb, hcur, hbuf⟩ := h
  refine ⟨hrc, hfc, hnb, hwb, hcur, fun j => ?_⟩
  simp only [writeCell_buf, Fin.getElem_fin, Vector.getElem_set]
  split
  · exact .inr ⟨l.toFin, rfl⟩
  · exact hbuf j

theorem applyToken_inRange {c : Config} {r : Retained} (h : retainedInRange c r) (i : Fin 40)
    (t : Token) : retainedInRange c (applyToken c i t r) := by
  cases t with
  | keep => exact h
  | set l => exact writeCell_inRange h i l

/-- Consuming a bit halves WB as NB falls by one, so WB stays below 2^NB (R27). -/
theorem shiftRight_lt_two_pow {w : Byte} {n m : Nat} (hnm : n = m + 1) (h : w.toNat < 2 ^ n) :
    (w >>> 1).toNat < 2 ^ m := by
  rw [BitVec.toNat_ushiftRight, Nat.shiftRight_eq_div_pow]
  rw [hnm, Nat.pow_succ] at h
  omega

theorem nextBit_inRange {c : Config} {r r' : Retained} {b : Bool} (h : retainedInRange c r)
    (e : nextBit c r = some (b, r')) : retainedInRange c r' := by
  obtain ⟨hrc, hfc, hnb, hwb, hcur, hbuf⟩ := h
  rcases nextBit_cases c r with ⟨-, -, e'⟩ | ⟨-, hlt, e'⟩ | ⟨hne, e'⟩ <;> rw [e'] at e <;> cases e
  · refine ⟨hrc, hfc, (by decide : 7 ≤ 8), ?_, ?_, hbuf⟩
    · exact shiftRight_lt_two_pow (n := 8) rfl (BitVec.isLt _)
    · show (r.cur + 1).toNat ≤ c.streamLen.toNat
      bv_omega
  · have hsub : r.nb.toNat = (r.nb - 1).toNat + 1 := by bv_omega
    refine ⟨hrc, hfc, ?_, shiftRight_lt_two_pow hsub hwb, hcur, hbuf⟩
    show (r.nb - 1).toNat ≤ 8
    omega

theorem nextBits_inRange {c : Config} {n v w : Nat} {r r' : Retained} (h : retainedInRange c r)
    (e : nextBits c n v r = some (w, r')) : retainedInRange c r' := by
  induction n generalizing v r with
  | zero => cases e; exact h
  | succ n ih =>
    obtain ⟨b, r1, e1, e2⟩ := nextBits_succ_some e
    exact ih (nextBit_inRange h e1) e2

theorem fetchToken_inRange {c : Config} {r r' : Retained} {t : Token} (h : retainedInRange c r)
    (e : fetchToken c r = some (t, r')) : retainedInRange c r' := by
  rcases fetchToken_cases e with ⟨-, e1⟩ | ⟨v, r1, -, e1, e2⟩
  · exact nextBit_inRange h e1
  · exact nextBits_inRange (nextBit_inRange h e1) e2

theorem execDecodeBegin_inRange {s t : State} (hl : legal s.cfg = true)
    (hr : retainedInRange s.cfg s.ret) (h : execDecodeBegin s = .next t) :
    retainedInRange t.cfg t.ret := by
  obtain ⟨r, ⟨-, rfl⟩ | ⟨hne, rfl⟩, rfl⟩ := execDecodeBegin_next h
  · have hpos : s.cfg.frameCount ≠ 0 := fun e => by simpa [e] using (legal_counts_pos hl).1
    exact countFrame_inRange (rewind_inRange hr) hpos.symm
  · exact countFrame_inRange hr hne

/-! ### The invariant of R40 -/

/-- Past COLD_INIT, and at a warm DISPATCH, the retained group is in range (R182). -/
theorem RunInv.inRange {s : State} {p : Phase} (h : RunInv s) (hp : p = s.ph)
    (hfault : p ≠ faultPhase) (hcold : p ≠ coldInitPhase)
    (hwarm : p = dispatchPhase → s.cause = 1) : retainedInRange s.cfg s.ret := by
  subst hp
  obtain ⟨-, -, (hf | hc | ⟨hd, hne⟩) | hr⟩ := h
  · exact absurd hf hfault
  · exact absurd hc hcold
  · exact absurd (hwarm hd) hne
  · exact hr

theorem RunInv.inRange_of_ne {s : State} {p : Phase} (h : RunInv s) (hp : p = s.ph)
    (hdispatch : p ≠ dispatchPhase) (hcold : p ≠ coldInitPhase) (hfault : p ≠ faultPhase) :
    retainedInRange s.cfg s.ret :=
  h.inRange hp hfault hcold fun e => absurd e hdispatch

theorem armTimerPhase_ne (p : BitVec 1) :
    armTimerPhase p ≠ dispatchPhase ∧ armTimerPhase p ≠ coldInitPhase ∧
      armTimerPhase p ≠ faultPhase := by
  revert p
  decide

theorem RunInv.lines_off {s : State} (h : RunInv s) : linesOff s := by
  obtain ⟨-, hlines, -⟩ := h
  exact hlines

theorem runInv_raiseFault {s : State} (h : RunInv s) (k : FaultKind) :
    RunInv (raiseFault k s) :=
  ⟨(by decide : phaseDefined faultPhase = true), h.lines_off, .inl (.inl rfl)⟩

/-- A reset other than the periodic wake enters the cold path, whatever the state before it. -/
theorem runInv_resetEntry_cold {c : EventCode} (hc : c ≠ 1) (s : State) :
    RunInv (resetEntry c s) :=
  ⟨(by decide : phaseDefined dispatchPhase = true), linesOff_of_replicate rfl,
    .inl (.inr (.inr ⟨rfl, hc⟩))⟩

theorem runInv_setPhase {ph : Phase} {s : State} (hph : phaseDefined ph = true)
    (hlines : linesOff s) (hr : retainedInRange s.cfg s.ret) : RunInv (setPhase ph s) :=
  ⟨hph, hlines, .inr hr⟩

theorem phaseDefined_phaseAfterToken {slot : PhaseIndex} (hs : slot.toNat < 40) :
    phaseDefined (phaseAfterToken slot) = true := by
  rcases phaseAfterToken_cases slot with ⟨-, e⟩ | ⟨-, e, hsub⟩ <;> rw [e]
  · decide
  · exact phaseDefined_decodeToken (by omega)

theorem phaseDefined_phaseAfterCell {k : PhaseIndex} (hk : k.toNat < 40) :
    phaseDefined (phaseAfterCell k) = true := by
  rcases phaseAfterCell_cases hk with ⟨-, e⟩ | ⟨hlt, e, hadd⟩ <;> rw [e]
  · decide
  · exact phaseDefined_scanCell (by omega)

theorem execScanCell_keeps_runInv {k : PhaseIndex} {s t : State} (hi : RunInv s)
    (hr : retainedInRange s.cfg s.ret) (h : execScanCell k s = .next t) : RunInv t := by
  have hlines := hi.lines_off
  rcases execScanCell_next h with ⟨-, rfl⟩ | ⟨pos, hpos, ⟨-, rfl⟩ | ⟨-, rfl⟩⟩
  · exact runInv_raiseFault hi _
  all_goals have hph := phaseDefined_phaseAfterCell (lt_of_cellOperand_some hpos)
  · exact runInv_setPhase hph hlines hr
  · exact runInv_setPhase hph (linesOff_drivePulse hlines _ _ _) hr

theorem execDecodeToken_keeps_runInv {slot : PhaseIndex} {s t : State} (hi : RunInv s)
    (hr : retainedInRange s.cfg s.ret) (h : execDecodeToken slot s = .next t) : RunInv t := by
  have hlines := hi.lines_off
  rcases execDecodeToken_next h with ⟨-, rfl⟩ | ⟨_, -, -, rfl⟩ | ⟨i, tok, r, hslot, hfetch, rfl⟩
  · exact runInv_raiseFault hi _
  · exact runInv_raiseFault hi _
  · exact runInv_setPhase (phaseDefined_phaseAfterToken (lt_of_cellOperand_some hslot)) hlines
      (applyToken_inRange (fetchToken_inRange hr hfetch) i tok)

theorem execScanEnd_keeps_runInv {s t : State} (hl : legal s.cfg = true) (hlines : linesOff s)
    (hr : retainedInRange s.cfg s.ret) (h : execScanEnd s = .next t) : RunInv t := by
  rcases execScanEnd_next h with ⟨-, rfl⟩ | ⟨hdue, rfl⟩
  · exact runInv_setPhase (by decide) hlines
      (setRefreshCount_inRange hr (legal_counts_pos hl).2)
  · exact runInv_setPhase (by decide) hlines
      (setRefreshCount_inRange hr (nextRefreshCount_lt hr hdue))

theorem execDispatch_keeps_runInv {s t : State} (hi : RunInv s) (hph : dispatchPhase = s.ph)
    (h : execDispatch s = .next t) : RunInv t := by
  have hlines := hi.lines_off
  rcases execDispatch_next h with ⟨hcause, rfl⟩ | ⟨-, rfl⟩
  · exact runInv_setPhase (phaseDefined_armTimer 1) hlines
      (hi.inRange hph (by decide) (by decide) fun _ => hcause)
  · exact ⟨(by decide : phaseDefined coldInitPhase = true), hlines, .inl (.inr (.inl rfl))⟩

theorem execArmTimer_keeps_runInv {p : BitVec 1} {s t : State} (hlines : linesOff s)
    (hr : retainedInRange s.cfg s.ret) (h : execArmTimer p s = .next t) : RunInv t := by
  cases h
  refine runInv_setPhase ?_ hlines hr
  split <;> decide

/-- The sequencer's step at PH keeps the invariant. -/
theorem exec_decodePhase_keeps_runInv {s t : State} (hl : legal s.cfg = true) (hi : RunInv s)
    (h : exec (decodePhase s.ph) s = .next t) : RunInv t := by
  have hlines := hi.lines_off
  have hcode := encode_decodePhase s.ph
  generalize decodePhase s.ph = i at h hcode
  cases i with
  | keep | set | powerOn | timeout | externalReset | otherReset => cases hcode
  | dispatch => exact execDispatch_keeps_runInv hi (Code.phase.inj hcode) h
  | coldInit =>
    cases h
    exact runInv_setPhase (phaseDefined_armTimer 0) hlines (zero_inRange hl)
  | armTimer p =>
    obtain ⟨hd, hc, hf⟩ := armTimerPhase_ne p
    exact execArmTimer_keeps_runInv hlines (hi.inRange_of_ne (Code.phase.inj hcode) hd hc hf) h
  | scanCell k =>
    obtain ⟨hd, hc, -, hf⟩ := scanCellPhase_ne k
    exact execScanCell_keeps_runInv hi (hi.inRange_of_ne (Code.phase.inj hcode) hd hc hf) h
  | scanEnd =>
    exact execScanEnd_keeps_runInv hl hlines
      (hi.inRange_of_ne (Code.phase.inj hcode) (by decide) (by decide) (by decide)) h
  | decodeBegin =>
    have hr := execDecodeBegin_inRange hl
      (hi.inRange_of_ne (Code.phase.inj hcode) (by decide) (by decide) (by decide)) h
    cases h
    exact runInv_setPhase (by decide) hlines hr
  | decodeToken slot =>
    obtain ⟨hd, hc, -, hf⟩ := decodeTokenPhase_ne slot
    exact execDecodeToken_keeps_runInv hi (hi.inRange_of_ne (Code.phase.inj hcode) hd hc hf) h
  | sleep => cases h; exact hi
  | fault => cases h
  | illegal => cases h; exact runInv_raiseFault hi _

/-- A wake from SLEEP is warm, and in SLEEP the retained group is in range. -/
theorem execTimeout_keeps_runInv {s t : State} (hi : RunInv s) (h : execTimeout s = .next t) :
    RunInv t := by
  rcases execTimeout_next h with ⟨hsleep, rfl⟩ | ⟨-, rfl⟩
  · exact ⟨(by decide : phaseDefined dispatchPhase = true), linesOff_of_replicate rfl,
      .inr (hi.inRange_of_ne hsleep.symm (by decide) (by decide) (by decide))⟩
  · exact runInv_raiseFault hi _

/-- Selection takes an event, or the step that PH decodes to. -/
theorem select_event_or_decodePhase (s : State) :
    select s = .powerOn ∨ select s = .timeout ∨ select s = .externalReset ∨
      select s = .otherReset ∨ select s = decodePhase s.ph := by
  rcases select_cases s with ⟨-, e⟩ | ⟨-, hf, e⟩ | ⟨-, -, i, ha, e⟩ | ⟨-, -, -, -, e⟩ |
    ⟨-, -, -, -, e⟩
  · exact .inl e
  · exact .inr (.inr (.inr (.inr (by rw [e, hf, decodePhase_fault]))))
  · rcases arrivingReset_cases ha with rfl | rfl
    · exact .inr (.inr (.inl e))
    · exact .inr (.inr (.inr (.inl e)))
  · exact .inr (.inl e)
  · exact .inr (.inr (.inr (.inr e)))

theorem exec_select_keeps_runInv {s t : State} (hl : legal s.cfg = true) (hi : RunInv s)
    (h : exec (select s) s = .next t) : RunInv t := by
  rcases select_event_or_decodePhase s with e | e | e | e | e <;> rw [e] at h
  · cases h; exact runInv_resetEntry_cold (by decide) _
  · exact execTimeout_keeps_runInv hi h
  · cases h; exact runInv_resetEntry_cold (by decide) s
  · cases h; exact runInv_resetEntry_cold (by decide) s
  · exact exec_decodePhase_keeps_runInv hl hi h

/-- The boundary's bookkeeping writes nothing the invariant speaks of. -/
theorem runInv_settle {s u : State} (h : RunInv u) (i : Instr) : RunInv (settle i s u) := h

/-- Settles O47: each event and each step of the sequencer keeps the invariant, and so does
the boundary's bookkeeping. -/
theorem stepKeepsTheRunInvariant : Obligations.StepKeepsTheRunInvariant := by
  intro s t hl hi h
  obtain ⟨-, u, hu, rfl⟩ := step_next h
  exact runInv_settle (exec_select_keeps_runInv hl hi hu) _

/-- Settles O48: after reset the group is still the unread draw of the cold path. -/
theorem runInvariantHoldsAtReset : Obligations.RunInvariantHoldsAtReset :=
  ⟨by decide, linesOff_of_replicate rfl, .inl (.inr (.inr ⟨rfl, by decide⟩))⟩

/-- Settles O36, field by field: `State.reset` holds at each the value that RESET(0) leaves there. -/
theorem resetStateIsAfterPowerOn : Obligations.ResetStateIsAfterPowerOn :=
  ⟨dispatchPhase_eq, linesOff_of_replicate rfl, rfl, rfl, rfl, rfl, rfl⟩

end Sys2Proof.Machine
end

section
/-! SUPPORT. A run's records: TRACE only grows, and FAULT holds a kind exactly in the faulted phase
(spec/10_state.md R30, R33 and R37). -/

namespace Sys2Proof.Machine

theorem execPowerOn_next {s t : State} (h : execPowerOn s = .next t) :
    t.cfg = s.cfg ∧ t.ph = dispatchPhase ∧ t.fault = none ∧ t.started = true := by
  obtain rfl := Host.Outcome.next.inj h
  exact ⟨resetEntry_cfg _ _, resetEntry_ph _ _, resetEntry_fault _ _, resetEntry_started _ _⟩

/-- No instruction writes the configuration. -/
theorem exec_cfg {i : Instr} {s t : State} (h : exec i s = .next t) : t.cfg = s.cfg := by
  rcases exec_ways h with ⟨_, rfl⟩ | ⟨-, hp⟩ | ha
  · rfl
  · exact (execPowerOn_next hp).1
  · exact ha.cfg

theorem step_cfg {s t : State} (h : step s = .next t) : t.cfg = s.cfg := by
  obtain ⟨-, u, hu, rfl⟩ := step_next h
  rw [settle_cfg, exec_cfg hu]

theorem decodePhase_ne_powerOn (ph : Phase) : decodePhase ph ≠ .powerOn := by
  intro h
  have hcode := encode_decodePhase ph
  rw [h] at hcode
  cases hcode

/-- POWER_ON is taken at the start of a run only. -/
theorem select_ne_powerOn {s : State} (hs : s.started = true) : select s ≠ .powerOn := by
  rcases select_cases s with ⟨h, -⟩ | ⟨-, -, e⟩ | ⟨-, -, i, ha, e⟩ | ⟨-, -, -, -, e⟩ | ⟨-, -, -, -, e⟩
  · simp [hs] at h
  · simp [e]
  · rcases arrivingReset_cases ha with rfl | rfl <;> simp [e]
  · simp [e]
  · rw [e]
    exact decodePhase_ne_powerOn _

/-- Within a run a step raises a fault or advances the run. -/
theorem run_step_ways {s t : State} (hs : s.started = true) (h : step s = .next t) :
    ∃ i u, t = settle i s u ∧ ((∃ kind, u = raiseFault kind s) ∨ Advances s u) := by
  obtain ⟨-, u, hu, rfl⟩ := step_next h
  refine ⟨_, u, rfl, ?_⟩
  rcases exec_ways hu with hf | ⟨hp, -⟩ | ha
  · exact .inl hf
  · exact absurd hp (select_ne_powerOn hs)
  · exact .inr ha

/-- The first step of a run is POWER_ON. -/
theorem first_step {s t : State} (hs : s.started = false) (h : step s = .next t) :
    t.ph = dispatchPhase ∧ t.fault = none ∧ t.started = true := by
  obtain ⟨-, u, hu, rfl⟩ := step_next h
  rw [show select s = .powerOn from if_pos hs] at hu
  exact (execPowerOn_next hu).2

/-- A faulted state of a run is stuck (R151). -/
theorem step_of_faulted {s : State} (hl : legal s.cfg = true) (hs : s.started = true)
    (hf : s.ph = faultPhase) : step s = .fault (.stuck s.fault) := by
  have hsel : select s = .fault := by simp [select, hs, hf]
  simp [step, hl, hsel, exec, execFault]

/-- Settles O46: a step of a run raises a fault, which writes FAULT and PH alone, or advances. -/
theorem traceGrowsAndFaultsStay : Obligations.TraceGrowsAndFaultsStay := by
  intro s t hs h
  obtain ⟨i, u, rfl, ⟨kind, rfl⟩ | ha⟩ := run_step_ways hs h
  · exact ⟨⟨[], by simp, by simp⟩, by simp, .inr ⟨faultPhase_eq, by simp⟩, hs⟩
  · exact ⟨ha.trace, fun hne => ha.fault ▸ hne, .inl ha.fault, ha.started.trans hs⟩

theorem step_started {s t : State} (h : step s = .next t) : t.started = true := by
  cases hs : s.started with
  | false => exact (first_step hs h).2.2
  | true =>
    obtain ⟨-, -, -, ht⟩ := traceGrowsAndFaultsStay s t hs h
    exact ht

/-- FAULT and PH agree after a step, where they did before it. -/
theorem step_keeps_fault_iff_faulted {s t : State}
    (hi : s.started = true → (s.fault ≠ none ↔ s.ph = faultPhase)) (h : step s = .next t) :
    t.fault ≠ none ↔ t.ph = faultPhase := by
  cases hs : s.started with
  | false =>
    obtain ⟨hph, hfault, -⟩ := first_step hs h
    simp only [hph, hfault]
    decide
  | true =>
    have hph : s.ph ≠ faultPhase := fun hf => by
      rw [step_of_faulted (step_next h).1 hs hf] at h
      cases h
    obtain ⟨i, u, rfl, ⟨kind, rfl⟩ | ha⟩ := run_step_ways hs h
    · simp
    · have hph' : u.ph ≠ faultPhase := ha.ph.elim (fun e => e ▸ hph) id
      rw [settle_fault, settle_ph, ha.fault, hi hs]
      exact iff_of_false hph hph'

/-- Settles O59: FAULT and PH are written together, and a faulted state has no next step. -/
theorem faultIsRecordedExactlyInTheFaultedPhase :
    Obligations.FaultIsRecordedExactlyInTheFaultedPhase := by
  intro s t hi h
  have hl : legal t.cfg = true := step_cfg h ▸ (step_next h).1
  exact ⟨step_keeps_fault_iff_faulted hi h, step_started h,
    step_of_faulted hl (step_started h)⟩

end Sys2Proof.Machine
end

section
/-! SUPPORT. Which instruction writes which register: from what each instruction's next state is,
with the frame of the bit reader for the tokens (spec/10_state.md R41). -/

namespace Sys2Proof.Machine

/-- Settles O45, by the instructions: each one's next state names the registers it writes, and the
tokens write through the bit reader, which leaves FC and RC (and for KEEP the buffer) alone. -/
theorem registersAreWrittenOnlyByTheirColumn : Obligations.RegistersAreWrittenOnlyByTheirColumn := by
  intro i s t h
  cases i with
  | keep =>
    rcases execKeep_next h with ⟨k, rfl⟩ | ⟨b, r, e, rfl⟩
    · simp [faultPhase_eq]
    · obtain ⟨hbuf, hfc, hrc⟩ := nextBit_frame e
      simp [hbuf, hfc, hrc]
  | set l =>
    rcases execSet_next h with ⟨k, rfl⟩ | ⟨slot, v, r, e, rfl⟩
    · simp [faultPhase_eq]
    · obtain ⟨-, hfc, hrc⟩ := nextBits_frame e
      simp [hfc, hrc]
  | dispatch => rcases execDispatch_next h with ⟨-, rfl⟩ | ⟨-, rfl⟩ <;> simp
  | coldInit => cases h; simp
  | armTimer p => cases h; simp
  | scanCell k =>
    rcases execScanCell_next h with ⟨-, rfl⟩ | ⟨pos, -, ⟨-, rfl⟩ | ⟨-, rfl⟩⟩ <;> simp
  | scanEnd => rcases execScanEnd_next h with ⟨-, rfl⟩ | ⟨-, rfl⟩ <;> simp
  | decodeBegin =>
    obtain ⟨r, ⟨-, rfl⟩ | ⟨-, rfl⟩, rfl⟩ := execDecodeBegin_next h <;> simp
  | decodeToken slot =>
    rcases execDecodeToken_next h with ⟨-, rfl⟩ | ⟨_, -, -, rfl⟩ | ⟨i, tok, r, -, e, rfl⟩
    · simp
    · simp
    · obtain ⟨-, hfc, hrc⟩ := fetchToken_frame e
      simp [hfc, hrc]
  | sleep => cases h; simp
  | fault => cases h
  | illegal ph => cases h; simp
  | powerOn => cases h; simp
  | timeout => rcases execTimeout_next h with ⟨-, rfl⟩ | ⟨-, rfl⟩ <;> simp
  | externalReset => cases h; simp
  | otherReset => cases h; simp

end Sys2Proof.Machine
end

section
/-! SUPPORT. The configuration and the stream ROM in it: read by the steps, written by none
(spec/20_memory.md R50, spec/10_state.md R20 (3)). -/

namespace Sys2Proof.Machine

/-- Settles O44, by `step_cfg`: the instruction the step selects raises a fault, is POWER_ON or
advances the run (`exec_ways`), none of which writes the configuration, and neither does the
boundary's bookkeeping. -/
theorem configurationIsNeverWritten : Obligations.ConfigurationIsNeverWritten :=
  fun _ _ h => step_cfg h

end Sys2Proof.Machine
end

section
/-! SUPPORT. The three opcode spaces read back: a value of PH splits into its kind and index, the
reserved values are the ones R77 does not define, and a token is read off its own bits
(spec/30_encoding.md R70 to R72, R77 to R79). -/

namespace Sys2Proof

/-! ### The phase register -/

theorem toNat_div_64_eq_kind (ph : Phase) : ph.toNat / 64 = (phaseKind ph).toNat := by
  rw [← phase_kind_index ph, phase_toNat, phaseKind_phase]
  omega

theorem toNat_mod_64_eq_index (ph : Phase) : ph.toNat % 64 = (phaseIndex ph).toNat := by
  rw [← phase_kind_index ph, phase_toNat, phaseIndex_phase]
  omega

/-- A row of `decodePhase` is a term of the table, and only the row's own values are defined: what
R77 lists is what `decodePhase` gives a row to. -/
theorem row_wf_and_reserved {c : Prop} [Decidable c] {i : Instr} {ph : Phase}
    (hdef : phaseDefined ph = decide c) (hi : c → i.wf = true) :
    (if c then i else .illegal ph).wf = true ∧
      (phaseDefined ph = false → (if c then i else .illegal ph) = .illegal ph) := by
  by_cases hc : c
  · simp [hdef, hc, hi hc]
  · simp [hdef, hc, Instr.wf]

/-- What a value of PH decodes to is a term of the table, and it is ILLEGAL for every value that R77
does not define (R78). -/
theorem decodePhase_wf_and_reserved (ph : Phase) :
    (decodePhase ph).wf = true ∧ (phaseDefined ph = false → decodePhase ph = .illegal ph) := by
  have hzero : decide (phaseIndex ph = 0) = ((phaseIndex ph).toNat == 0) :=
    decide_eq_decide.2 BitVec.toNat_eq
  unfold decodePhase
  dsimp only
  split
  case h_3 hk | h_4 hk | h_7 hk =>
    refine row_wf_and_reserved ?_ (by simp [Instr.wf])
    simp [phaseDefined, toNat_div_64_eq_kind, toNat_mod_64_eq_index, hk]
  case h_10 =>
    -- the kind is none of the nine that R77 names
    have hdef : phaseDefined ph = false := by simp only [phaseDefined, toNat_div_64_eq_kind]
    simp [Instr.wf, hdef]
  all_goals
    rename_i hk
    refine row_wf_and_reserved ?_ fun _ => rfl
    rw [hzero]
    simp [phaseDefined, toNat_div_64_eq_kind, toNat_mod_64_eq_index, hk]

theorem decodePhase_wf (ph : Phase) : (decodePhase ph).wf = true :=
  (decodePhase_wf_and_reserved ph).1

theorem decodePhase_of_reserved {ph : Phase} (h : phaseDefined ph = false) :
    decodePhase ph = .illegal ph :=
  (decodePhase_wf_and_reserved ph).2 h

/-- Settles O2: the word of what PH decodes to is PH itself, so no other term has that word. -/
theorem everyPhaseValueIsOneTableWord : Obligations.EveryPhaseValueIsOneTableWord :=
  fun ph => ⟨encode_decodePhase ph, decodePhase_wf ph⟩

/-! ### Tokens -/

/-- A bit shifted in below: the step of R71's assembly. -/
theorem toNat_append_ofBool {n : Nat} (v : BitVec n) (b : Bool) :
    (v ++ BitVec.ofBool b).toNat = 2 * v.toNat + b.toNat := by
  rw [BitVec.toNat_append, BitVec.toNat_ofBool, ← Nat.shiftLeft_add_eq_or_of_lt b.toNat_lt,
    Nat.shiftLeft_eq]
  omega

/-- Settles O4: each of the four later bits doubles what stands above it. -/
theorem levelIsAssembledMostSignificantFirst :
    Obligations.LevelIsAssembledMostSignificantFirst := by
  intro b1 b2 b3 b4 b5
  simp only [levelOfBits, toNat_append_ofBool, BitVec.toNat_ofBool]
  omega

/-- The bits of a level, the most significant first, assemble to the level. -/
theorem levelOfBits_getLsbD (l : Level) :
    levelOfBits (l.getLsbD 4) (l.getLsbD 3) (l.getLsbD 2) (l.getLsbD 1) (l.getLsbD 0) = l := by
  apply BitVec.eq_of_toNat_eq
  rw [levelIsAssembledMostSignificantFirst]
  simp only [BitVec.getLsbD, Nat.toNat_testBit]
  omega

/-- Settles O5: the flag says how many bits the token has, whatever follows it. -/
theorem tokenIsReadOffItsOwnBits : Obligations.TokenIsReadOffItsOwnBits := by
  intro t rest
  cases t with
  | keep => rfl
  | set l =>
    show Except.ok (Token.set (levelOfBits _ _ _ _ _), rest) = _
    rw [levelOfBits_getLsbD]

/-- A token's bits and nothing after them decode to the token's instruction. -/
theorem decode_tokenBits (t : Token) : decode (.token (tokenBits t)) = .ok t.toInstr := by
  have h := tokenIsReadOffItsOwnBits t []
  rw [List.append_nil] at h
  simp [decode, h]

/-! ### The round trip -/

/-- Settles O1, by the rows of the table: an index in its range comes back from PH, a reserved value
is ILLEGAL, and a token is read off its own bits. -/
theorem decodeOfEncodeGivesInstruction : Obligations.DecodeOfEncodeGivesInstruction := by
  intro i hwf
  cases i with
  | keep => exact decode_tokenBits .keep
  | set l => exact decode_tokenBits (.set l)
  | dispatch => exact congrArg _ decodePhase_dispatch
  | coldInit => exact congrArg _ decodePhase_coldInit
  | armTimer p => exact congrArg _ (decodePhase_armTimer p)
  | scanCell k => exact congrArg _ (decodePhase_scanCell (of_decide_eq_true hwf))
  | scanEnd => exact congrArg _ decodePhase_scanEnd
  | decodeBegin => exact congrArg _ decodePhase_decodeBegin
  | decodeToken slot => exact congrArg _ (decodePhase_decodeToken (of_decide_eq_true hwf))
  | sleep => exact congrArg _ decodePhase_sleep
  | fault => exact congrArg _ decodePhase_fault
  | illegal ph => exact congrArg _ (decodePhase_of_reserved (by simpa [Instr.wf] using hwf))
  | powerOn | timeout | externalReset | otherReset => rfl

/-- A word decodes to the term of the table whose encoding it is. -/
theorem decode_word {w : Code} {i : Instr} (hw : encode i = w) (hi : i.wf = true) :
    decode w = .ok i := by
  rw [← hw, decodeOfEncodeGivesInstruction i hi]

/-- Settles O3: each word listed is its row's encoding, and decodes to the row by the round trip. -/
theorem tableWordsDecodeAsListed : Obligations.TableWordsDecodeAsListed := by
  refine ⟨?_, ?_, ?_, ?_, ?_, ?_, ?_, ?_, ?_, ?_, ?_, ?_, ?_, ?_, ?_, ?_, ?_⟩ <;>
    exact decode_word (by decide) (by decide)

end Sys2Proof
end

section
/-! SUPPORT. How many bits tokens take: in a sequence of tokens, and in a ROM long enough for them
(spec/30_encoding.md R73, R74). -/

namespace Sys2Proof

/-- Tokens laid end to end take a bit each, and five more for each SET. -/
theorem streamOfTokens_length (ts : List Token) :
    (streamOfTokens ts).length = ts.length + 5 * (ts.filter fun t => t != .keep).length := by
  induction ts with
  | nil => rfl
  | cons t ts ih =>
    have hcons : (streamOfTokens (t :: ts)).length =
        (tokenBits t).length + (streamOfTokens ts).length := List.length_append
    rw [hcons, ih]
    cases t <;> simp [tokenBits] <;> omega

/-- Settles O6: `streamOfTokens_length` at 40 tokens. -/
theorem frameLengthCountsItsSetTokens : Obligations.FrameLengthCountsItsSetTokens := by
  intro ts h
  rw [streamOfTokens_length, h]

end Sys2Proof

namespace Sys2Proof.Machine

/-- Where six bits are left, a token begins and ends, whatever the bits. -/
theorem tokenLengthAt_of_room {c : Config} {p : Nat} (h : p + 6 ≤ streamBits c) :
    ∃ len, tokenLengthAt c p = some len ∧ len ≤ 6 := by
  have hp : p < streamBits c := by omega
  cases hb : streamBit c p with
  | false => exact ⟨1, by simp [tokenLengthAt, hp, hb], by omega⟩
  | true => exact ⟨6, by simp [tokenLengthAt, hp, hb, h], le_rfl⟩

/-- Where six bits are left for each of n tokens, all of them end. -/
theorem tokensEnd_of_room {c : Config} {n p : Nat} (h : p + 6 * n ≤ streamBits c) :
    (tokensEnd c n p).isSome = true := by
  induction n generalizing p with
  | zero => rfl
  | succ n ih =>
    obtain ⟨len, hlen, hle⟩ := tokenLengthAt_of_room (c := c) (p := p) (by omega)
    simp only [tokensEnd, hlen]
    exact ih (by omega)

/-- Settles O7: 240 bits are room for the 40 tokens of a frame at six bits each. -/
theorem roomyAssetIsWellFormed : Obligations.RoomyAssetIsWellFormed := by
  intro c hcount hroom
  have hend : (frameStart c c.frameCount.toNat).isSome = true := by
    apply tokensEnd_of_room
    unfold streamBits
    omega
  rw [assetWellFormed, hend, Bool.and_true]
  exact bne_iff_ne.2 hcount

end Sys2Proof.Machine
end

section
/-! SUPPORT. The reserved phases at step selection, and the codes of lines, faults and causes
(spec/30_encoding.md R78, R80, R81, spec/60_exceptions.md R151, R156). -/

namespace Sys2Proof.Machine

/-! ### Reserved phases -/

theorem raiseFault_eq (kind : FaultKind) (s : State) :
    raiseFault kind s = { s with fault := some kind, ph := 0x3C0 } := by
  rw [raiseFault, faultPhase_eq]

theorem cellOperand_of_ge {k : PhaseIndex} (h : 40 ≤ k.toNat) : cellOperand k = none :=
  dif_neg (by omega)

/-- At a reserved phase the step selects ILLEGAL, whatever the timer says (R156). -/
theorem select_of_reserved {s : State} (hs : s.started = true) (ha : arrivingReset s = none)
    (hph : phaseDefined s.ph = false) : select s = .illegal s.ph := by
  have hne : s.ph ≠ faultPhase := fun e => by
    rw [e] at hph
    exact absurd hph (by decide)
  simp [select, hs, hne, ha, decodePhase_of_reserved hph, timerExpires]

/-- A step at a reserved phase raises ILLEGAL_PHASE and takes no time. -/
theorem step_of_reserved {s : State} (hl : legal s.cfg = true) (hs : s.started = true)
    (ha : arrivingReset s = none) (hph : phaseDefined s.ph = false) :
    step s = .next { raiseFault .illegalPhase s with env := s.env.tail } := by
  have hexec : exec (select s) s = .next (raiseFault .illegalPhase s) := by
    rw [select_of_reserved hs ha hph]
    rfl
  rw [step, if_pos hl, hexec, ← settle_faulted (raiseFault_ph _ _)]

/-- Settles O35: the instruction ILLEGAL raises the fault, a reserved phase selects it, and an index
of 40 or more names no cell. -/
theorem reservedPhaseRaisesIllegalPhase : Obligations.ReservedPhaseRaisesIllegalPhase := by
  refine ⟨fun ph s => ?_, fun s hl hs ha hph => ?_, fun k s hk => ⟨?_, ?_⟩⟩
  · simp only [exec, execIllegal, raiseFault_eq]
  · rw [step_of_reserved hl hs ha hph, raiseFault_eq]
  · simp only [exec, execScanCell, cellOperand_of_ge hk, raiseFault_eq]
  · simp only [exec, execDecodeToken, cellOperand_of_ge hk, raiseFault_eq]

/-! ### Codes -/

/-- Code 1 alone reads as a periodic wake (R80). -/
theorem resetCause_eq_periodicWake_iff (c : EventCode) :
    resetCause c = .periodicWake ↔ c = 1 := by
  by_cases hc : c = 1 <;> simp [resetCause, hc]

/-- Settles O8: the codes are those of the model's tables, and CAUSE reads as R80 has it. -/
theorem codesAreAsListed : Obligations.CodesAreAsListed :=
  ⟨⟨rfl, rfl, rfl⟩, ⟨rfl, rfl, rfl⟩, resetCause_eq_periodicWake_iff⟩

end Sys2Proof.Machine
end

section
/-! SUPPORT. The bit reader in terms of the bits it has still to consume: a refill leaves them as
they are, NEXT_BIT takes the first, NEXT_BITS the first n, and a read overruns where there are too
few (spec/40_decoder.md R90, R91, spec/20_memory.md R53, R66). -/

namespace Sys2Proof.Machine

/-- Bit j of the byte at an address is stream bit 8·a + j (R53). -/
theorem streamBit_of_byte (c : Config) (a : Nat) {j : Nat} (hj : j < 8) :
    streamBit c (8 * a + j) = (c.stream.read a).getLsbD j := by
  have hdiv : (8 * a + j) / 8 = a := by omega
  have hmod : (8 * a + j) % 8 = j := by omega
  rw [streamBit, hdiv, hmod]

/-- The stream bits from a byte of the ROM on are that byte's eight, then those from the next. -/
theorem streamBits_from_byte (c : Config) {a len : Nat} (h : a < len) :
    (List.range (8 * (len - a))).map (fun n => streamBit c (8 * a + n)) =
      (List.range 8).map (c.stream.read a).getLsbD ++
        (List.range (8 * (len - (a + 1)))).map (fun n => streamBit c (8 * (a + 1) + n)) := by
  rw [show 8 * (len - a) = 8 + 8 * (len - (a + 1)) by omega, List.range_add, List.map_append,
    List.map_map]
  congr 1
  · exact List.map_congr_left fun j hj => streamBit_of_byte c a (List.mem_range.1 hj)
  · refine List.map_congr_left fun n _ => ?_
    rw [Function.comp_apply]
    congr 1
    omega

theorem pendingBits_eq_nil_iff (c : Config) (r : Retained) :
    pendingBits c r = [] ↔ r.nb = 0 ∧ c.streamLen ≤ r.cur := by
  have hnb : r.nb.toNat = 0 ↔ r.nb = 0 :=
    ⟨fun h => BitVec.eq_of_toNat_eq h, fun h => h ▸ rfl⟩
  simp only [pendingBits, List.append_eq_nil_iff, List.map_eq_nil_iff, List.range_eq_nil, hnb,
    BitVec.le_def]
  refine and_congr_right fun _ => ?_
  omega

/-- Loading the byte at CUR moves no bit of the stream. -/
theorem pendingBits_refill {c : Config} {r r' : Retained} (h : refill c r = some r') :
    pendingBits c r' = pendingBits c r := by
  rcases refill_cases c r with ⟨-, -, e⟩ | ⟨hnb, hcur, e⟩ | ⟨-, e⟩ <;> rw [e] at h <;> cases h
  · have hlt : r.cur.toNat < c.streamLen.toNat := hcur
    have hsucc : (r.cur + 1).toNat = r.cur.toNat + 1 := by bv_omega
    simp only [pendingBits, hnb, hsucc]
    rw [streamBits_from_byte c hlt]
    rfl
  · rfl

/-- With a bit in WB, consuming takes the first pending one. -/
theorem pendingBits_consumeBit (c : Config) {r : Retained} (h : r.nb ≠ 0) :
    pendingBits c r = (consumeBit r).1 :: pendingBits c (consumeBit r).2 := by
  have hnb : r.nb.toNat = (r.nb - 1).toNat + 1 := by bv_omega
  simp only [pendingBits, consumeBit, hnb, List.range_succ_eq_map, List.map_cons, List.map_map,
    List.cons_append]
  congr 2
  refine List.map_congr_left fun j _ => ?_
  rw [Function.comp_apply, BitVec.getLsbD_ushiftRight, Nat.add_comm]

/-- What NEXT_BIT answers is the first pending bit, and the others stay pending. -/
theorem pendingBits_nextBit {c : Config} {r r' : Retained} {b : Bool}
    (h : nextBit c r = some (b, r')) : pendingBits c r = b :: pendingBits c r' := by
  obtain ⟨r1, e, hc⟩ := Option.map_eq_some_iff.1 h
  have hnb : r1.nb ≠ 0 := by
    rcases refill_cases c r with ⟨-, -, e'⟩ | ⟨-, -, e'⟩ | ⟨hne, e'⟩ <;> rw [e'] at e <;> cases e
    · exact (by decide : (8 : BitVec 4) ≠ 0)
    · exact hne
  rw [← pendingBits_refill e, pendingBits_consumeBit c hnb, hc]

theorem nextBit_eq_none_iff (c : Config) (r : Retained) :
    nextBit c r = none ↔ r.nb = 0 ∧ c.streamLen ≤ r.cur := by
  rcases nextBit_cases c r with ⟨hnb, hcur, e⟩ | ⟨-, hcur, e⟩ | ⟨hnb, e⟩
  · exact iff_of_true e ⟨hnb, hcur⟩
  · exact iff_of_false (by simp [e]) fun h => BitVec.not_le.2 hcur h.2
  · exact iff_of_false (by simp [e]) fun h => hnb h.1

/-- NEXT_BIT overruns exactly where no bit is pending. -/
theorem nextBit_eq_none_iff_pending (c : Config) (r : Retained) :
    nextBit c r = none ↔ pendingBits c r = [] :=
  (nextBit_eq_none_iff c r).trans (pendingBits_eq_nil_iff c r).symm

/-- P = 8·CUR − NB grows by one with each bit. -/
theorem nextBit_position {c : Config} {r r' : Retained} {b : Bool}
    (h : nextBit c r = some (b, r')) :
    8 * r'.cur.toNat + r.nb.toNat = 8 * r.cur.toNat + r'.nb.toNat + 1 := by
  rcases nextBit_cases c r with ⟨-, -, e⟩ | ⟨hnb, hcur, e⟩ | ⟨hnb, e⟩ <;> rw [e] at h <;> cases h
  · show 8 * (r.cur + 1).toNat + r.nb.toNat = 8 * r.cur.toNat + (7 : BitVec 4).toNat + 1
    bv_omega
  · show 8 * r.cur.toNat + r.nb.toNat = 8 * r.cur.toNat + (r.nb - 1).toNat + 1
    bv_omega

/-- The reader has gone from `r` to `r'` over n bits and has `rest` still to consume; everything but
CUR, WB and NB stands. -/
structure Consumed (c : Config) (r : Retained) (n : Nat) (rest : List Bool) (r' : Retained) :
    Prop where
  pending : pendingBits c r' = rest
  position : 8 * r'.cur.toNat + r.nb.toNat = 8 * r.cur.toNat + r'.nb.toNat + n
  buf : r'.buf = r.buf
  fc : r'.fc = r.fc
  rc : r'.rc = r.rc

theorem Consumed.refl {c : Config} {r : Retained} {rest : List Bool}
    (h : pendingBits c r = rest) : Consumed c r 0 rest r := ⟨h, rfl, rfl, rfl, rfl⟩

theorem Consumed.trans {c : Config} {r r1 r2 : Retained} {m n : Nat} {mid rest : List Bool}
    (h : Consumed c r m mid r1) (g : Consumed c r1 n rest r2) : Consumed c r (n + m) rest r2 := by
  refine ⟨g.pending, ?_, g.buf.trans h.buf, g.fc.trans h.fc, g.rc.trans h.rc⟩
  have hpos := h.position
  have gpos := g.position
  omega

theorem nextBit_of_pending {c : Config} {r : Retained} {b : Bool} {rest : List Bool}
    (h : pendingBits c r = b :: rest) :
    ∃ r', nextBit c r = some (b, r') ∧ Consumed c r 1 rest r' := by
  cases e : nextBit c r with
  | none =>
    rw [(nextBit_eq_none_iff_pending c r).1 e] at h
    cases h
  | some p =>
    obtain ⟨b', r'⟩ := p
    obtain ⟨rfl, hrest⟩ := List.cons.inj ((pendingBits_nextBit e).symm.trans h)
    obtain ⟨hbuf, hfc, hrc⟩ := nextBit_frame e
    exact ⟨r', rfl, hrest, nextBit_position e, hbuf, hfc, hrc⟩

/-- Settles O9, by NEXT_BIT's three ways: it overruns with nothing pending, consumes from a byte it
loads, or consumes from WB. -/
theorem nextBitTakesTheNextPendingBit : Obligations.NextBitTakesTheNextPendingBit := by
  intro c r
  refine ⟨(nextBit_eq_none_iff_pending c r).2, nextBit_eq_none_iff c r, fun b rest h => ?_⟩
  obtain ⟨r', e, hr⟩ := nextBit_of_pending h
  refine ⟨r', e, hr.pending, hr.position, hr.buf, hr.fc, hr.rc, fun hnb => ?_, fun hnb => ?_⟩ <;>
    rcases nextBit_cases c r with ⟨-, -, e'⟩ | ⟨hz, -, e'⟩ | ⟨hne, e'⟩ <;> rw [e'] at e
  · cases e
  · cases e; exact ⟨rfl, rfl, rfl⟩
  · exact absurd hnb hne
  · cases e
  · exact absurd hz hnb
  · cases e; exact ⟨rfl, rfl, rfl⟩

/-! ### NEXT_BITS -/

/-- The number whose bits, the most significant first, are those of `v` and then `bs` (R91). -/
def shiftIn (v : Nat) (bs : List Bool) : Nat := bs.foldl (fun v b => 2 * v + b.toNat) v

theorem nextBits_succ {c : Config} {r r1 : Retained} {b : Bool} (h : nextBit c r = some (b, r1))
    (n v : Nat) : nextBits c (n + 1) v r = nextBits c n (2 * v + b.toNat) r1 := by
  rw [nextBits, h]

theorem nextBits_of_pending {c : Config} (bs : List Bool) {rest : List Bool} {r : Retained}
    (h : pendingBits c r = bs ++ rest) (v : Nat) :
    ∃ r', nextBits c bs.length v r = some (shiftIn v bs, r') ∧
      Consumed c r bs.length rest r' := by
  induction bs generalizing v r with
  | nil => exact ⟨r, rfl, .refl h⟩
  | cons b bs ih =>
    obtain ⟨r1, e, h1⟩ := nextBit_of_pending h
    obtain ⟨r', e', h'⟩ := ih h1.pending (2 * v + b.toNat)
    refine ⟨r', ?_, h1.trans h'⟩
    rw [List.length_cons, nextBits_succ e, e']
    rfl

/-- With fewer than n bits pending, NEXT_BITS(n) overruns. -/
theorem nextBits_overruns {c : Config} {n : Nat} {r : Retained}
    (h : (pendingBits c r).length < n) (v : Nat) : nextBits c n v r = none := by
  induction n generalizing v r with
  | zero => omega
  | succ n ih =>
    cases e : nextBit c r with
    | none => rw [nextBits, e]
    | some p =>
      obtain ⟨b, r1⟩ := p
      rw [pendingBits_nextBit e, List.length_cons] at h
      rw [nextBits_succ e]
      exact ih (by omega) _

/-- Settles O10, by induction on the bits: NEXT_BIT hands them out one by one. -/
theorem nextBitsReadsMostSignificantFirst : Obligations.NextBitsReadsMostSignificantFirst := by
  refine fun c r bs rest => ⟨fun h => ?_, fun n h => nextBits_overruns h 0⟩
  obtain ⟨r', e, hr⟩ := nextBits_of_pending bs h 0
  exact ⟨r', e, hr.pending, hr.position⟩

end Sys2Proof.Machine
end

section
/-! SUPPORT. The tokens and the steps of the frame decoder, from the pending bits: reading a token
consumes its bits, and the instruction then does what the token does at its slot
(spec/40_decoder.md R92 to R95, spec/60_exceptions.md R151). -/

namespace Sys2Proof.Machine

/-! ### Reading a token -/

theorem fetchToken_of_clear {c : Config} {r r1 : Retained} (h : nextBit c r = some (false, r1)) :
    fetchToken c r = some (.keep, r1) := by
  rw [fetchToken, h]

theorem fetchToken_of_set {c : Config} {r r1 r2 : Retained} {v : Nat}
    (h : nextBit c r = some (true, r1)) (h' : nextBits c 5 0 r1 = some (v, r2)) :
    fetchToken c r = some (.set (BitVec.ofNat 5 v), r2) := by
  rw [fetchToken, h]
  simp only [h']

/-- A level is what NEXT_BITS(5) reads from its own bits (R71, R91). -/
theorem ofNat_shiftIn_levelBits (l : Level) :
    BitVec.ofNat 5 (shiftIn 0 [l.getLsbD 4, l.getLsbD 3, l.getLsbD 2, l.getLsbD 1, l.getLsbD 0]) =
      l := by
  apply BitVec.eq_of_toNat_eq
  conv_rhs => rw [← levelOfBits_getLsbD l, levelIsAssembledMostSignificantFirst]
  have hlt := (levelOfBits (l.getLsbD 4) (l.getLsbD 3) (l.getLsbD 2) (l.getLsbD 1)
    (l.getLsbD 0)).isLt
  rw [levelIsAssembledMostSignificantFirst] at hlt
  simp only [shiftIn, List.foldl_cons, List.foldl_nil, BitVec.toNat_ofNat]
  omega

/-- Where the pending bits begin with a token, that token is read and its bits are consumed. -/
theorem fetchToken_of_pending {c : Config} {r : Retained} (t : Token) {rest : List Bool}
    (h : pendingBits c r = tokenBits t ++ rest) :
    ∃ r', fetchToken c r = some (t, r') ∧ Consumed c r (tokenBits t).length rest r' := by
  cases t with
  | keep =>
    obtain ⟨r1, e, h1⟩ := nextBit_of_pending h
    exact ⟨r1, fetchToken_of_clear e, h1⟩
  | set l =>
    obtain ⟨r1, e, h1⟩ := nextBit_of_pending h
    obtain ⟨r2, e', h2⟩ := nextBits_of_pending _ h1.pending 0
    refine ⟨r2, ?_, h1.trans h2⟩
    rw [fetchToken_of_set e e', ofNat_shiftIn_levelBits]

/-- With no bit pending, or a set flag and fewer than five bits, reading a token overruns. -/
theorem fetchToken_overruns {c : Config} {r : Retained}
    (h : pendingBits c r = [] ∨ ∃ bs, pendingBits c r = true :: bs ∧ bs.length < 5) :
    fetchToken c r = none := by
  rcases h with h | ⟨bs, h, hlt⟩
  · rw [fetchToken, (nextBit_eq_none_iff_pending c r).2 h]
  · obtain ⟨r1, e, h1⟩ := nextBit_of_pending h
    rw [fetchToken, e]
    simp only [nextBits_overruns (h1.pending.symm ▸ hlt) 0]

/-! ### The slot -/

theorem toNat_slotIndex (slot : Fin 40) : (BitVec.ofNat 6 slot.val).toNat = slot.val := by
  rw [BitVec.toNat_ofNat]
  omega

theorem cellOperand_slotIndex (slot : Fin 40) :
    cellOperand (BitVec.ofNat 6 slot.val) = some slot := by
  have h := toNat_slotIndex slot
  rw [cellOperand_of_lt (by omega)]
  exact congrArg some (Fin.ext h)

/-- In the phase of a slot's DECODE_TOKEN step, KEEP and SET act at that slot (log 15). -/
theorem currentSlot_of_ph {s : State} {slot : Fin 40}
    (h : s.ph = BitVec.ofNat 10 (0x1C0 + slot.val)) : currentSlot s = some slot := by
  have hph : s.ph = decodeTokenPhase (BitVec.ofNat 6 slot.val) := by
    rw [h, decodeTokenPhase_eq, toNat_slotIndex]
  simp [currentSlot, hph, decodeTokenPhase, cellOperand_slotIndex]

/-- The phase after a slot's token, as a number (R77, R95). -/
theorem phaseAfterToken_slotIndex (slot : Fin 40) :
    phaseAfterToken (BitVec.ofNat 6 slot.val) =
      BitVec.ofNat 10 (if slot.val = 0 then 0x200 else 0x1C0 + (slot.val - 1)) := by
  have hslot := toNat_slotIndex slot
  rcases phaseAfterToken_cases (BitVec.ofNat 6 slot.val) with ⟨hz, e⟩ | ⟨hne, e, hsub⟩
  · rw [hz] at hslot
    have hzero : slot.val = 0 := hslot.symm
    rw [e, if_pos hzero, sleepPhase_eq]
    rfl
  · rw [e, if_neg (by omega), decodeTokenPhase_eq]
    congr 2
    omega

/-! ### The instructions -/

theorem writeCell_buf_of_eq {r r' : Retained} (h : r'.buf = r.buf) (i : Fin 40) (d : Byte) :
    (writeCell r' i d).buf = r.buf.set i d := by
  rw [writeCell_buf, h]

theorem exec_keep_of_bit {s : State} {slot : Fin 40} {b : Bool} {r : Retained}
    (hslot : currentSlot s = some slot) (h : nextBit s.cfg s.ret = some (b, r)) :
    exec .keep s = .next { s with ret := r } := by
  simp [exec, execKeep, hslot, h]

theorem exec_keep_of_overrun {s : State} {slot : Fin 40}
    (hslot : currentSlot s = some slot) (h : nextBit s.cfg s.ret = none) :
    exec .keep s = .next (raiseFault .streamOverrun s) := by
  simp [exec, execKeep, hslot, h]

theorem exec_set_of_bits {s : State} {slot : Fin 40} {l : Level} {v : Nat} {r : Retained}
    (hslot : currentSlot s = some slot) (h : nextBits s.cfg 6 0 s.ret = some (v, r)) :
    exec (.set l) s = .next { s with ret := writeCell r slot (dutyOf s.cfg l) } := by
  simp [exec, execSet, hslot, h]

theorem exec_set_of_overrun {s : State} {slot : Fin 40} {l : Level}
    (hslot : currentSlot s = some slot) (h : nextBits s.cfg 6 0 s.ret = none) :
    exec (.set l) s = .next (raiseFault .streamOverrun s) := by
  simp [exec, execSet, hslot, h]

theorem exec_decodeToken_of_token {s : State} {t : Token} {r : Retained} (slot : Fin 40)
    (h : fetchToken s.cfg s.ret = some (t, r)) :
    exec (.decodeToken (BitVec.ofNat 6 slot.val)) s = .next { s with
      ret := applyToken s.cfg slot t r
      ph := BitVec.ofNat 10 (if slot.val = 0 then 0x200 else 0x1C0 + (slot.val - 1)) } := by
  rw [← phaseAfterToken_slotIndex]
  simp [exec, execDecodeToken, cellOperand_slotIndex, h, setPhase]

theorem exec_decodeToken_of_overrun {s : State} (slot : Fin 40)
    (h : fetchToken s.cfg s.ret = none) :
    exec (.decodeToken (BitVec.ofNat 6 slot.val)) s = .next (raiseFault .streamOverrun s) := by
  simp [exec, execDecodeToken, cellOperand_slotIndex, h]

/-- Settles O11: NEXT_BIT takes KEEP's bit, or overruns. -/
theorem keepConsumesItsBitOnly : Obligations.KeepConsumesItsBitOnly := by
  intro s slot hph
  have hslot := currentSlot_of_ph hph
  refine ⟨fun b rest h => ?_, fun h => ?_⟩
  · obtain ⟨r, e, hr⟩ := nextBit_of_pending h
    exact ⟨r, exec_keep_of_bit hslot e, hr.buf, hr.fc, hr.rc, hr.position, hr.pending⟩
  · rw [exec_keep_of_overrun hslot ((nextBit_eq_none_iff_pending _ _).2 h), raiseFault_eq]

/-- Settles O12: NEXT_BITS takes SET's six bits, or overruns; the cell is written after them. -/
theorem setWritesDutyOfItsLevel : Obligations.SetWritesDutyOfItsLevel := by
  intro s slot l hph
  have hslot := currentSlot_of_ph hph
  refine ⟨fun bs rest hlen h => ?_, fun h => ?_⟩
  · obtain ⟨r, e, hr⟩ := nextBits_of_pending bs h 0
    rw [hlen] at e hr
    exact ⟨_, exec_set_of_bits hslot e, writeCell_buf_of_eq hr.buf slot _, hr.fc, hr.rc, hr.position,
      hr.pending⟩
  · rw [exec_set_of_overrun hslot (nextBits_overruns h 0), raiseFault_eq]

/-- Settles O14: a clear flag is a KEEP token, which writes no cell. -/
theorem decodeTokenKeepsOnClearFlag : Obligations.DecodeTokenKeepsOnClearFlag := by
  intro s slot rest h
  obtain ⟨r, e, hr⟩ := fetchToken_of_pending .keep h
  exact ⟨r, exec_decodeToken_of_token slot e, hr.buf, hr.fc, hr.rc, hr.position, hr.pending⟩

theorem levelOfBits_eq_ofNat (b1 b2 b3 b4 b5 : Bool) :
    levelOfBits b1 b2 b3 b4 b5 =
      BitVec.ofNat 5 (16 * b1.toNat + 8 * b2.toNat + 4 * b3.toNat + 2 * b4.toNat + b5.toNat) := by
  rw [← levelIsAssembledMostSignificantFirst, BitVec.ofNat_toNat, BitVec.setWidth_eq]

/-- Five level bits after a set flag are the bits of the SET token of the level they assemble to. -/
theorem tokenBits_levelOfBits : ∀ b1 b2 b3 b4 b5 : Bool,
    tokenBits (.set (levelOfBits b1 b2 b3 b4 b5)) = [true, b1, b2, b3, b4, b5] := by
  decide

/-- Settles O15: a set flag and five bits are the SET token of the level R71 assembles. -/
theorem decodeTokenSetsOnSetFlag : Obligations.DecodeTokenSetsOnSetFlag := by
  intro s slot b1 b2 b3 b4 b5 rest h
  obtain ⟨r, e, hr⟩ := fetchToken_of_pending (.set _) (rest := rest) <|
    show pendingBits s.cfg s.ret = tokenBits (.set (BitVec.ofNat 5 _)) ++ rest by
      rw [← levelOfBits_eq_ofNat, tokenBits_levelOfBits, h]
      rfl
  exact ⟨_, exec_decodeToken_of_token slot e, writeCell_buf_of_eq hr.buf slot _, hr.fc, hr.rc,
    hr.position, hr.pending⟩

/-- Settles O16: the token cannot be read, and the fault is raised on the state before the step. -/
theorem decodeTokenOverrunDiscardsTheStep : Obligations.DecodeTokenOverrunDiscardsTheStep := by
  intro s slot h
  rw [exec_decodeToken_of_overrun slot (fetchToken_overruns h), raiseFault_eq]

/-- The value read so far does not decide where NEXT_BITS leaves the reader. -/
theorem nextBits_reader_indep {c : Config} {n v x : Nat} {r r' : Retained}
    (h : nextBits c n v r = some (x, r')) (w : Nat) : ∃ y, nextBits c n w r = some (y, r') := by
  induction n generalizing v w r with
  | zero => cases h; exact ⟨w, rfl⟩
  | succ n ih =>
    obtain ⟨b, r1, e, h'⟩ := nextBits_succ_some h
    rw [nextBits_succ e]
    exact ih h' _

/-- A token that is read does the same as an instruction of its own at the slot of PH (log 15). -/
theorem exec_token_of_fetch {s : State} {slot : Fin 40} {t : Token} {r : Retained}
    (hslot : currentSlot s = some slot) (h : fetchToken s.cfg s.ret = some (t, r)) :
    exec t.toInstr s = .next { s with ret := applyToken s.cfg slot t r } := by
  rcases fetchToken_cases h with ⟨rfl, e⟩ | ⟨v, r1, rfl, e, e'⟩
  · exact exec_keep_of_bit hslot e
  · obtain ⟨y, e''⟩ := nextBits_reader_indep e' 1
    exact exec_set_of_bits hslot ((nextBits_succ e 5 0).trans e'')

/-- Settles O17: both the step and the token's own instruction apply the token that the pending bits
begin with. -/
theorem decodeTokenRunsThePendingToken : Obligations.DecodeTokenRunsThePendingToken := by
  intro s t slot tok rest hph h ht
  obtain ⟨r, e, -⟩ := fetchToken_of_pending tok h
  rw [exec_token_of_fetch (currentSlot_of_ph hph) e] at ht
  cases ht
  exact exec_decodeToken_of_token slot e

/-- Settles O13: the two branches of the comparison. -/
theorem decodeBeginComparesResetsThenCounts :
    Obligations.DecodeBeginComparesResetsThenCounts := by
  have hph : decodeTokenPhase 39#6 = 0x1E7#10 := decodeTokenPhase_eq 39
  refine fun s => ⟨fun h => ?_, fun h => ?_⟩ <;>
    simp [exec, execDecodeBegin, loopEnds, h, rewind, setPhase, hph]

end Sys2Proof.Machine
end

section
/-! SUPPORT. The reader's position in the asset (spec/40_decoder.md R97): each token read moves it
over that token, each step keeps it where the tokens decoded so far end, and a well-formed asset has
every token that a step needs (R99). -/

namespace Sys2Proof.Machine

/-! ### The reader at a bit of the stream -/

theorem readerAt_zero {c : Config} {r : Retained} (hcur : r.cur = 0) (hnb : r.nb = 0) :
    readerAt c r 0 := by
  rw [readerAt, hcur, hnb]
  exact ⟨Nat.zero_le _, rfl, Nat.zero_le _, fun j hj => absurd hj (Nat.not_lt_zero j)⟩

theorem readerAt.le_streamBits {c : Config} {r : Retained} {p : Nat} (h : readerAt c r p) :
    p ≤ streamBits c := by
  obtain ⟨-, hpos, hcur, -⟩ := h
  unfold streamBits
  omega

/-- NEXT_BIT answers the stream bit the reader stands at, and moves past it. -/
theorem readerAt.after_nextBit {c : Config} {r r' : Retained} {b : Bool} {p : Nat}
    (h : readerAt c r p) (e : nextBit c r = some (b, r')) :
    b = streamBit c p ∧ readerAt c r' (p + 1) := by
  obtain ⟨hnb, hpos, hcur, hwb⟩ := h
  rcases nextBit_cases c r with ⟨-, -, e'⟩ | ⟨hz, hlt, e'⟩ | ⟨hne, e'⟩ <;> rw [e'] at e <;> cases e
  · -- a byte is loaded, and its bit 0 consumed
    have hp : p = 8 * r.cur.toNat := by
      rw [hz] at hpos
      exact hpos
    have hsucc : (r.cur + 1).toNat = r.cur.toNat + 1 := by bv_omega
    refine ⟨by rw [hp]; exact (streamBit_of_byte c _ (j := 0) (by omega)).symm,
      (by decide : 7 ≤ 8), ?_, ?_, fun j hj => ?_⟩
    · show p + 1 + 7 = 8 * (r.cur + 1).toNat
      omega
    · show (r.cur + 1).toNat ≤ c.streamLen.toNat
      rw [hsucc]
      exact hlt
    · have hj : j < 7 := hj
      rw [BitVec.getLsbD_ushiftRight, hp, Nat.add_assoc,
        streamBit_of_byte c _ (j := 1 + j) (by omega)]
  · -- the next bit is in WB
    have hsub : r.nb.toNat = (r.nb - 1).toNat + 1 := by bv_omega
    refine ⟨hwb 0 (by omega), ?_, ?_, hcur, fun j hj => ?_⟩
    · show (r.nb - 1).toNat ≤ 8
      omega
    · show p + 1 + (r.nb - 1).toNat = 8 * r.cur.toNat
      omega
    · have hj : j < (r.nb - 1).toNat := hj
      rw [BitVec.getLsbD_ushiftRight, hwb (1 + j) (by omega), Nat.add_assoc]

/-- Before the end of the ROM there is a bit to read. -/
theorem readerAt.exists_nextBit {c : Config} {r : Retained} {p : Nat} (h : readerAt c r p)
    (hp : p < streamBits c) : ∃ r', nextBit c r = some (streamBit c p, r') := by
  cases e : nextBit c r with
  | some q =>
    obtain ⟨b, r'⟩ := q
    exact ⟨r', by rw [(h.after_nextBit e).1]⟩
  | none =>
    obtain ⟨hnb, hend⟩ := (nextBit_eq_none_iff c r).1 e
    obtain ⟨-, hpos, -, -⟩ := h
    have hend : c.streamLen.toNat ≤ r.cur.toNat := hend
    rw [hnb] at hpos
    have hpos : p = 8 * r.cur.toNat := hpos
    unfold streamBits at hp
    omega

theorem readerAt.after_nextBits {c : Config} {n v w : Nat} {r r' : Retained} {p : Nat}
    (h : readerAt c r p) (e : nextBits c n v r = some (w, r')) : readerAt c r' (p + n) := by
  induction n generalizing v r p with
  | zero => cases e; exact h
  | succ n ih =>
    obtain ⟨b, r1, e1, e2⟩ := nextBits_succ_some e
    rw [Nat.add_comm n 1, ← Nat.add_assoc]
    exact ih (h.after_nextBit e1).2 e2

theorem readerAt.exists_nextBits {c : Config} {n : Nat} {r : Retained} {p : Nat}
    (h : readerAt c r p) (hp : p + n ≤ streamBits c) (v : Nat) :
    ∃ w r', nextBits c n v r = some (w, r') := by
  induction n generalizing v r p with
  | zero => exact ⟨v, r, rfl⟩
  | succ n ih =>
    obtain ⟨r1, e⟩ := h.exists_nextBit (by omega)
    rw [nextBits_succ e]
    exact ih (h.after_nextBit e).2 (by omega) _

/-- A token that is read is the one at the reader's position, and the reader moves to its end. -/
theorem readerAt.after_fetchToken {c : Config} {r r' : Retained} {t : Token} {p : Nat}
    (h : readerAt c r p) (e : fetchToken c r = some (t, r')) :
    ∃ len, tokenLengthAt c p = some len ∧ readerAt c r' (p + len) := by
  rcases fetchToken_cases e with ⟨-, e1⟩ | ⟨v, r1, -, e1, e2⟩ <;> obtain ⟨hb, h1⟩ := h.after_nextBit e1
  · have hp : p < streamBits c := h1.le_streamBits
    exact ⟨1, by simp [tokenLengthAt, hp, ← hb], h1⟩
  · have h6 : readerAt c r' (p + 6) := h1.after_nextBits e2
    have hp : p + 6 ≤ streamBits c := h6.le_streamBits
    exact ⟨6, by simp [tokenLengthAt, ← hb, hp, show p < streamBits c by omega], h6⟩

/-- Where the ROM holds a whole token, it can be read. -/
theorem readerAt.fetchToken_ne_none {c : Config} {r : Retained} {p : Nat} (h : readerAt c r p)
    (hlen : (tokenLengthAt c p).isSome = true) : fetchToken c r ≠ none := by
  have hp : p < streamBits c := by
    by_contra hge
    simp [tokenLengthAt, hge] at hlen
  obtain ⟨r1, e⟩ := h.exists_nextBit hp
  cases hb : streamBit c p with
  | false =>
    rw [fetchToken_of_clear (hb ▸ e)]
    exact Option.some_ne_none _
  | true =>
    have hroom : p + 6 ≤ streamBits c := by
      by_contra hge
      simp [tokenLengthAt, hb, hge] at hlen
    obtain ⟨v, r2, e'⟩ := (h.after_nextBit e).2.exists_nextBits (n := 5) hroom 0
    rw [fetchToken_of_set (hb ▸ e) e']
    exact Option.some_ne_none _

/-! ### The reader after n tokens -/

/-- n tokens have been decoded since the last rewind, of a frame that the asset still has. -/
def ReaderAfter (c : Config) (n : Nat) (r : Retained) : Prop :=
  r.fc.toNat ≤ c.frameCount.toNat ∧ ∃ p, tokensEnd c n 0 = some p ∧ readerAt c r p

theorem readerAfter_zero {c : Config} {r : Retained} (hfc : r.fc.toNat ≤ c.frameCount.toNat)
    (hcur : r.cur = 0) (hnb : r.nb = 0) : ReaderAfter c 0 r :=
  ⟨hfc, 0, rfl, readerAt_zero hcur hnb⟩

/-- Reading a token is one token more, whatever it then does to the buffer. -/
theorem ReaderAfter.after_fetchToken {c : Config} {n : Nat} {r r' : Retained} {t : Token}
    (h : ReaderAfter c n r) (e : fetchToken c r = some (t, r')) (i : Fin 40) :
    ReaderAfter c (n + 1) (applyToken c i t r') := by
  obtain ⟨hfc, p, hend, hat⟩ := h
  obtain ⟨len, hlen, hat'⟩ := hat.after_fetchToken e
  obtain ⟨-, hfc', -⟩ := fetchToken_frame e
  refine ⟨by rw [applyToken_fc, hfc']; exact hfc, p + len, ?_, ?_⟩
  · rw [tokensEnd_succ, hend, Option.bind_some, hlen, Option.map_some]
  · simpa only [readerAt, applyToken_nb, applyToken_cur, applyToken_wb] using hat'

/-- A well-formed asset has every token of its frames (R74, R99). -/
theorem ReaderAfter.fetchToken_ne_none {c : Config} {n : Nat} {r : Retained}
    (h : ReaderAfter c n r) (hwf : assetWellFormed c = true) (hn : n < 40 * r.fc.toNat) :
    fetchToken c r ≠ none := by
  obtain ⟨hfc, p, hend, hat⟩ := h
  obtain ⟨-, hframes⟩ := Bool.and_eq_true_iff.1 hwf
  have hnext : (tokensEnd c (n + 1) 0).isSome = true :=
    tokensEnd_isSome_of_le (by omega) hframes
  rw [tokensEnd_succ, hend, Option.bind_some, Option.isSome_map] at hnext
  exact hat.fetchToken_ne_none hnext

/-! ### The position invariant -/

/-- No token of the present frame is left to decode: PH is no DECODE_TOKEN. -/
def outsideFrame (ph : Phase) : Prop := ∀ slot, decodePhase ph ≠ .decodeToken slot

theorem outsideFrame_of_decode {ph : Phase} {i : Instr} (h : decodePhase ph = i)
    (hi : ∀ slot, i ≠ .decodeToken slot) : outsideFrame ph := fun slot => h ▸ hi slot

theorem outsideFrame_sleep : outsideFrame sleepPhase :=
  outsideFrame_of_decode decodePhase_sleep nofun

theorem outsideFrame_armTimer (p : BitVec 1) : outsideFrame (armTimerPhase p) :=
  outsideFrame_of_decode (decodePhase_armTimer p) nofun

theorem outsideFrame_scanCell {k : PhaseIndex} (hk : k.toNat < 40) :
    outsideFrame (scanCellPhase k) :=
  outsideFrame_of_decode (decodePhase_scanCell hk) nofun

theorem outsideFrame_phaseAfterCell {k : PhaseIndex} (hk : k.toNat < 40) :
    outsideFrame (phaseAfterCell k) := by
  rcases phaseAfterCell_cases hk with ⟨-, e⟩ | ⟨hlt, e, hadd⟩ <;> rw [e]
  · exact outsideFrame_of_decode decodePhase_scanEnd nofun
  · exact outsideFrame_scanCell (by omega)

theorem tokensDone_outsideFrame {s : State} (h : outsideFrame s.ph) :
    tokensDone s = 40 * s.ret.fc.toNat := by
  unfold tokensDone
  split
  · rename_i slot e
    exact absurd e (h slot)
  · rfl

theorem tokensDone_decodeToken {s : State} {slot : PhaseIndex}
    (h : decodePhase s.ph = .decodeToken slot) :
    tokensDone s = 40 * s.ret.fc.toNat - (slot.toNat + 1) := by
  rw [tokensDone, h]

theorem positionInv_of_unread {s : State} (h : retainedUnread s) : PositionInv s := .inl h

theorem positionInv_outsideFrame {s : State} (hph : outsideFrame s.ph)
    (h : ReaderAfter s.cfg (40 * s.ret.fc.toNat) s.ret) : PositionInv s := by
  obtain ⟨hfc, hend⟩ := h
  rw [← tokensDone_outsideFrame hph] at hend
  exact .inr ⟨hfc, fun slot e => absurd e (hph slot), hend⟩

theorem positionInv_decodeToken {s : State} {slot : PhaseIndex}
    (hph : decodePhase s.ph = .decodeToken slot) (hpos : 1 ≤ s.ret.fc.toNat)
    (h : ReaderAfter s.cfg (40 * s.ret.fc.toNat - (slot.toNat + 1)) s.ret) : PositionInv s := by
  obtain ⟨hfc, hend⟩ := h
  rw [← tokensDone_decodeToken hph] at hend
  exact .inr ⟨hfc, fun _ _ => hpos, hend⟩

theorem positionInv_raiseFault (k : FaultKind) (s : State) : PositionInv (raiseFault k s) :=
  positionInv_of_unread (.inl rfl)

/-- A reset other than the periodic wake enters the cold path. -/
theorem positionInv_resetEntry_cold {c : EventCode} (hc : c ≠ 1) (s : State) :
    PositionInv (resetEntry c s) :=
  positionInv_of_unread (.inr (.inr ⟨rfl, hc⟩))

/-- Past COLD_INIT, and at a warm DISPATCH, the reader stands where the tokens done end. -/
theorem PositionInv.readerAfter {s : State} {p : Phase} (h : PositionInv s) (hp : p = s.ph)
    (hfault : p ≠ faultPhase) (hcold : p ≠ coldInitPhase)
    (hwarm : p = dispatchPhase → s.cause = 1) :
    ReaderAfter s.cfg (tokensDone s) s.ret ∧
      ∀ slot, decodePhase s.ph = .decodeToken slot → 1 ≤ s.ret.fc.toNat := by
  subst hp
  obtain (hf | hc | ⟨hd, hne⟩) | ⟨hfc, hslot, hend⟩ := h
  · exact absurd hf hfault
  · exact absurd hc hcold
  · exact absurd (hwarm hd) hne
  · exact ⟨⟨hfc, hend⟩, hslot⟩

/-- Outside a frame, the reader stands at the end of the frames decoded. -/
theorem PositionInv.readerAfter_frames {s : State} {p : Phase} (h : PositionInv s) (hp : p = s.ph)
    (hfault : p ≠ faultPhase) (hcold : p ≠ coldInitPhase)
    (hwarm : p = dispatchPhase → s.cause = 1) (hout : outsideFrame p) :
    ReaderAfter s.cfg (40 * s.ret.fc.toNat) s.ret := by
  rw [← tokensDone_outsideFrame (hp ▸ hout)]
  exact (h.readerAfter hp hfault hcold hwarm).1

/-- At DECODE_TOKEN(s), all of FC frames but s + 1 tokens are done. -/
theorem PositionInv.readerAfter_slot {s : State} {slot : PhaseIndex} (h : PositionInv s)
    (hslot : slot.toNat < 40) (hp : decodeTokenPhase slot = s.ph) :
    ReaderAfter s.cfg (40 * s.ret.fc.toNat - (slot.toNat + 1)) s.ret ∧ 1 ≤ s.ret.fc.toNat := by
  obtain ⟨hd, hc, -, hf⟩ := decodeTokenPhase_ne slot
  have hdec : decodePhase s.ph = .decodeToken slot := hp ▸ decodePhase_decodeToken hslot
  obtain ⟨hr, hpos⟩ := h.readerAfter hp hf hc fun e => absurd e hd
  exact ⟨tokensDone_decodeToken hdec ▸ hr, hpos slot hdec⟩

/-! ### Each step keeps it -/

theorem execDispatch_keeps_position {s t : State} (hi : PositionInv s) (hp : dispatchPhase = s.ph)
    (h : execDispatch s = .next t) : PositionInv t := by
  rcases execDispatch_next h with ⟨hcause, rfl⟩ | ⟨-, rfl⟩
  · exact positionInv_outsideFrame (outsideFrame_armTimer 1)
      (hi.readerAfter_frames hp (by decide) (by decide) (fun _ => hcause)
        (outsideFrame_of_decode decodePhase_dispatch nofun))
  · exact positionInv_of_unread (.inr (.inl rfl))

theorem execColdInit_keeps_position {s t : State} (h : execColdInit s = .next t) :
    PositionInv t := by
  cases h
  exact positionInv_outsideFrame (outsideFrame_armTimer 0)
    (readerAfter_zero (Nat.zero_le _) rfl rfl)

theorem execArmTimer_keeps_position {p : BitVec 1} {s t : State}
    (hr : ReaderAfter s.cfg (40 * s.ret.fc.toNat) s.ret) (h : execArmTimer p s = .next t) :
    PositionInv t := by
  cases h
  refine positionInv_outsideFrame ?_ hr
  rw [setPhase_ph]
  split
  · exact outsideFrame_sleep
  · exact outsideFrame_scanCell (by decide)

theorem execScanCell_keeps_position {k : PhaseIndex} {s t : State}
    (hr : ReaderAfter s.cfg (40 * s.ret.fc.toNat) s.ret) (h : execScanCell k s = .next t) :
    PositionInv t := by
  rcases execScanCell_next h with ⟨-, rfl⟩ | ⟨pos, hpos, ⟨-, rfl⟩ | ⟨-, rfl⟩⟩
  · exact positionInv_raiseFault _ s
  all_goals
    exact positionInv_outsideFrame (outsideFrame_phaseAfterCell (lt_of_cellOperand_some hpos)) hr

theorem execScanEnd_keeps_position {s t : State}
    (hr : ReaderAfter s.cfg (40 * s.ret.fc.toNat) s.ret) (h : execScanEnd s = .next t) :
    PositionInv t := by
  rcases execScanEnd_next h with ⟨-, rfl⟩ | ⟨-, rfl⟩
  · exact positionInv_outsideFrame (outsideFrame_of_decode decodePhase_decodeBegin nofun) hr
  · exact positionInv_outsideFrame outsideFrame_sleep hr

/-- DECODE_BEGIN counts the frame whose 40 tokens are still to do. -/
theorem execDecodeBegin_keeps_position {s t : State} (hl : legal s.cfg = true)
    (hr : ReaderAfter s.cfg (40 * s.ret.fc.toNat) s.ret) (h : execDecodeBegin s = .next t) :
    PositionInv t := by
  obtain ⟨r, hr', rfl⟩ := execDecodeBegin_next h
  have hpos := (legal_counts_pos hl).1
  have hslot : decodePhase (decodeTokenPhase 39) = .decodeToken 39 :=
    decodePhase_decodeToken (by decide)
  rcases hr' with ⟨-, rfl⟩ | ⟨hne, rfl⟩
  · exact positionInv_decodeToken hslot (le_refl 1) (readerAfter_zero hpos rfl rfl)
  · obtain ⟨hfc, hend⟩ := hr
    have hlt : s.ret.fc.toNat < s.cfg.frameCount.toNat :=
      lt_of_le_of_ne hfc fun e => hne (BitVec.eq_of_toNat_eq e)
    have hsucc : (s.ret.fc + 1).toNat = s.ret.fc.toNat + 1 := by bv_omega
    refine positionInv_decodeToken hslot ?_ ⟨?_, ?_⟩
    · show 1 ≤ (s.ret.fc + 1).toNat
      omega
    · show (s.ret.fc + 1).toNat ≤ s.cfg.frameCount.toNat
      omega
    · show ∃ p, tokensEnd s.cfg (40 * (s.ret.fc + 1).toNat - (39 + 1)) 0 = some p ∧ _
      rw [hsucc, show 40 * (s.ret.fc.toNat + 1) - (39 + 1) = 40 * s.ret.fc.toNat by omega]
      exact hend

theorem execDecodeToken_keeps_position {slot : PhaseIndex} {s t : State} (hi : PositionInv s)
    (hp : decodeTokenPhase slot = s.ph) (h : execDecodeToken slot s = .next t) :
    PositionInv t := by
  rcases execDecodeToken_next h with ⟨-, rfl⟩ | ⟨_, -, -, rfl⟩ | ⟨i, tok, r, hslot, hfetch, rfl⟩
  · exact positionInv_raiseFault _ s
  · exact positionInv_raiseFault _ s
  have hlt := lt_of_cellOperand_some hslot
  obtain ⟨hr, hpos⟩ := hi.readerAfter_slot hlt hp
  obtain ⟨-, hfc, -⟩ := fetchToken_frame hfetch
  have hfc' : (applyToken s.cfg i tok r).fc = s.ret.fc := (applyToken_fc _ _ _ _).trans hfc
  have hr' := hr.after_fetchToken hfetch i
  rcases phaseAfterToken_cases slot with ⟨rfl, e⟩ | ⟨-, e, hsub⟩
  · refine positionInv_outsideFrame (by rw [setPhase_ph, e]; exact outsideFrame_sleep) ?_
    simp only [setPhase_ret, setPhase_cfg, hfc']
    convert hr' using 1
    simp
    omega
  · refine positionInv_decodeToken (slot := slot - 1)
      (by rw [setPhase_ph, e]; exact decodePhase_decodeToken (by omega)) ?_ ?_
    · rw [setPhase_ret, hfc']
      exact hpos
    · simp only [setPhase_ret, setPhase_cfg, hfc']
      convert hr' using 1
      omega

/-- The sequencer's step at PH keeps the position. -/
theorem exec_decodePhase_keeps_position {s t : State} (hl : legal s.cfg = true)
    (hi : PositionInv s) (h : exec (decodePhase s.ph) s = .next t) : PositionInv t := by
  have hcode := encode_decodePhase s.ph
  have hwf := decodePhase_wf s.ph
  generalize decodePhase s.ph = i at h hcode hwf
  cases i with
  | keep | set | powerOn | timeout | externalReset | otherReset => cases hcode
  | dispatch => exact execDispatch_keeps_position hi (Code.phase.inj hcode) h
  | coldInit => exact execColdInit_keeps_position h
  | armTimer p =>
    obtain ⟨hd, hc, hf⟩ := armTimerPhase_ne p
    exact execArmTimer_keeps_position (hi.readerAfter_frames (Code.phase.inj hcode) hf hc
      (fun e => absurd e hd) (outsideFrame_armTimer p)) h
  | scanCell k =>
    obtain ⟨hd, hc, -, hf⟩ := scanCellPhase_ne k
    exact execScanCell_keeps_position (hi.readerAfter_frames (Code.phase.inj hcode) hf hc
      (fun e => absurd e hd) (outsideFrame_scanCell (of_decide_eq_true hwf))) h
  | scanEnd =>
    exact execScanEnd_keeps_position (hi.readerAfter_frames (Code.phase.inj hcode) (by decide)
      (by decide) (fun e => absurd e (by decide))
      (outsideFrame_of_decode decodePhase_scanEnd nofun)) h
  | decodeBegin =>
    exact execDecodeBegin_keeps_position hl (hi.readerAfter_frames (Code.phase.inj hcode)
      (by decide) (by decide) (fun e => absurd e (by decide))
      (outsideFrame_of_decode decodePhase_decodeBegin nofun)) h
  | decodeToken slot => exact execDecodeToken_keeps_position hi (Code.phase.inj hcode) h
  | sleep => cases h; exact hi
  | fault => cases h
  | illegal ph => cases h; exact positionInv_raiseFault _ s

/-- A wake from SLEEP finds the reader at the end of the frames decoded. -/
theorem execTimeout_keeps_position {s t : State} (hi : PositionInv s)
    (h : execTimeout s = .next t) : PositionInv t := by
  rcases execTimeout_next h with ⟨hsleep, rfl⟩ | ⟨-, rfl⟩
  · exact positionInv_outsideFrame (outsideFrame_of_decode decodePhase_dispatch nofun)
      (hi.readerAfter_frames hsleep.symm (by decide) (by decide) (fun e => absurd e (by decide))
        outsideFrame_sleep)
  · exact positionInv_raiseFault _ s

theorem exec_select_keeps_position {s t : State} (hl : legal s.cfg = true) (hi : PositionInv s)
    (h : exec (select s) s = .next t) : PositionInv t := by
  rcases select_event_or_decodePhase s with e | e | e | e | e <;> rw [e] at h
  · cases h; exact positionInv_resetEntry_cold (by decide) _
  · exact execTimeout_keeps_position hi h
  · cases h; exact positionInv_resetEntry_cold (by decide) s
  · cases h; exact positionInv_resetEntry_cold (by decide) s
  · exact exec_decodePhase_keeps_position hl hi h

/-- The boundary's bookkeeping moves no reader and writes no phase. -/
theorem positionInv_settle {s u : State} (h : PositionInv u) (i : Instr) :
    PositionInv (settle i s u) := h

/-- Settles O49: the token steps move the reader over a token each, DECODE_BEGIN counts the next
frame or rewinds, and every other step leaves the reader and FC or enters an unread phase. -/
theorem stepKeepsTheFramePosition : Obligations.StepKeepsTheFramePosition := by
  intro s t hl hi h
  obtain ⟨-, u, hu, rfl⟩ := step_next h
  exact positionInv_settle (exec_select_keeps_position hl hi hu) _

/-- Settles O50: after reset the retained group is still unread. -/
theorem framePositionHoldsAtReset : Obligations.FramePositionHoldsAtReset :=
  positionInv_of_unread (.inr (.inr ⟨rfl, by decide⟩))

/-! ### STREAM_OVERRUN -/

/-- Only a token that cannot be read records STREAM_OVERRUN (R66, R151). -/
theorem exec_streamOverrun {i : Instr} {s t : State} (h : exec i s = .next t)
    (hs : s.fault ≠ some .streamOverrun) (ht : t.fault = some .streamOverrun) :
    i = .keep ∨ (∃ l, i = .set l) ∨
      ∃ slot, i = .decodeToken slot ∧ slot.toNat < 40 ∧ fetchToken s.cfg s.ret = none := by
  cases i with
  | keep => exact .inl rfl
  | set l => exact .inr (.inl ⟨l, rfl⟩)
  | decodeToken slot =>
    rcases execDecodeToken_next h with ⟨-, rfl⟩ | ⟨_, hslot, e, -⟩ | ⟨_, _, _, -, -, rfl⟩
    · cases ht
    · exact .inr (.inr ⟨slot, rfl, lt_of_cellOperand_some hslot, e⟩)
    · exact absurd ht hs
  | dispatch => rcases execDispatch_next h with ⟨-, rfl⟩ | ⟨-, rfl⟩ <;> exact absurd ht hs
  | scanCell k =>
    rcases execScanCell_next h with ⟨-, rfl⟩ | ⟨_, -, ⟨-, rfl⟩ | ⟨-, rfl⟩⟩
    · cases ht
    · exact absurd ht hs
    · exact absurd ht hs
  | scanEnd => rcases execScanEnd_next h with ⟨-, rfl⟩ | ⟨-, rfl⟩ <;> exact absurd ht hs
  | decodeBegin =>
    obtain ⟨r, -, rfl⟩ := execDecodeBegin_next h
    exact absurd ht hs
  | timeout =>
    rcases execTimeout_next h with ⟨-, rfl⟩ | ⟨-, rfl⟩
    · exact absurd ht hs
    · cases ht
  | fault => cases h
  | illegal ph => cases h; cases ht
  | powerOn => cases h; cases ht
  | coldInit | armTimer | sleep | externalReset | otherReset => cases h; exact absurd ht hs

/-- Where no event is selected, the selected instruction is the one whose word PH holds. -/
theorem encode_of_select {s : State} {i : Instr} (h : select s = i) (hp : i ≠ .powerOn)
    (ht : i ≠ .timeout) (he : i ≠ .externalReset) (ho : i ≠ .otherReset) :
    encode i = .phase s.ph := by
  rcases select_event_or_decodePhase s with e | e | e | e | e <;> rw [h] at e
  · exact absurd e hp
  · exact absurd e ht
  · exact absurd e he
  · exact absurd e ho
  · rw [e]
    exact encode_decodePhase s.ph

/-- Settles O51: at DECODE_TOKEN(s) fewer than 40·FC tokens are done, so the well-formed asset has
the next one. -/
theorem wellFormedAssetIsNeverOverrun : Obligations.WellFormedAssetIsNeverOverrun := by
  intro s t hwf hi hs h ht
  obtain ⟨-, u, hu, rfl⟩ := step_next h
  rcases exec_streamOverrun hu hs ht with e | ⟨l, e⟩ | ⟨slot, e, hslot, hnone⟩ <;>
    have hcode := encode_of_select e nofun nofun nofun nofun
  · cases hcode
  · cases hcode
  · obtain ⟨hr, hpos⟩ := hi.readerAfter_slot hslot (Code.phase.inj hcode)
    exact hr.fetchToken_ne_none hwf (by omega) hnone

end Sys2Proof.Machine
end

section
/-! SUPPORT. Whole frames (spec/40_decoder.md R96, R98, R100): the token steps of a frame by
induction over its tokens, what a frame leaves unchanged, and the calls of `decodeNext()` up to the
loop reset. -/

namespace Sys2Proof.Machine

/-! ### The tokens of a frame -/

/-- DECODE_TOKEN(n - 1) down to DECODE_TOKEN(0): the last n token steps of a frame. -/
def lastTokenSteps (n : Nat) : List Instr :=
  (List.range n).map fun i => .decodeToken (BitVec.ofNat 6 (n - 1 - i))

theorem lastTokenSteps_succ (n : Nat) :
    lastTokenSteps (n + 1) = .decodeToken (BitVec.ofNat 6 n) :: lastTokenSteps n := by
  rw [lastTokenSteps, List.range_succ_eq_map, List.map_cons, List.map_map]
  congr 1
  refine List.map_congr_left fun i _ => ?_
  rw [Function.comp_apply, show n + 1 - 1 - (i + 1) = n - 1 - i by omega]

theorem frameTokenSteps_eq : frameTokenSteps = lastTokenSteps 40 := rfl

/-- What a token, if there is one, makes of its slot's cell (R92, R93). -/
def cellAfter (c : Config) (old : Byte) : Option Token → Byte
  | some (.set l) => c.dutyTable[l.toFin]
  | _ => old

theorem applyToken_cell_same (c : Config) (i : Fin 40) (t : Token) (r : Retained) :
    (applyToken c i t r).buf[i] = cellAfter c r.buf[i] (some t) := by
  cases t with
  | keep => rfl
  | set l => simp [cellAfter, dutyOf]

theorem applyToken_cell_other (c : Config) {i j : Fin 40} (h : i ≠ j) (t : Token) (r : Retained) :
    (applyToken c i t r).buf[j] = r.buf[j] := by
  cases t with
  | keep => rfl
  | set l => simp [Fin.val_ne_of_ne h]

/-- What reading the tokens `ts` into the last slots of a frame leaves: the bits after them pending,
each of those slots as its token has it, and the rest of the buffer, FC and RC as they were. -/
structure TokensApplied (c : Config) (ts : List Token) (rest : List Bool) (r r' : Retained) :
    Prop where
  pending : pendingBits c r' = rest
  fc : r'.fc = r.fc
  rc : r'.rc = r.rc
  cell : ∀ i : Fin 40, i.val < ts.length →
    r'.buf[i] = cellAfter c r.buf[i] ts[ts.length - 1 - i.val]?
  above : ∀ i : Fin 40, ts.length ≤ i.val → r'.buf[i] = r.buf[i]

/-- A token applied at its slot, and then the later ones below it. -/
theorem TokensApplied.cons {c : Config} {t : Token} {ts : List Token} {mid rest : List Bool}
    {r r1 r' : Retained} {i : Fin 40} {n : Nat} (hi : i.val = ts.length)
    (h1 : Consumed c r n mid r1) (h : TokensApplied c ts rest (applyToken c i t r1) r') :
    TokensApplied c (t :: ts) rest r r' := by
  refine ⟨h.pending, h.fc.trans ((applyToken_fc _ _ _ _).trans h1.fc),
    h.rc.trans ((applyToken_rc _ _ _ _).trans h1.rc), fun j hj => ?_, fun j hj => ?_⟩
  · rw [List.length_cons] at hj ⊢
    by_cases hij : i = j
    · subst hij
      rw [h.above i (by omega), applyToken_cell_same, h1.buf,
        show ts.length + 1 - 1 - i.val = 0 by omega, List.getElem?_cons_zero]
    · have hne : i.val ≠ j.val := Fin.val_ne_of_ne hij
      rw [h.cell j (by omega), applyToken_cell_other c hij, h1.buf,
        show ts.length + 1 - 1 - j.val = (ts.length - 1 - j.val) + 1 by omega,
        List.getElem?_cons_succ]
  · rw [List.length_cons] at hj
    have hij : i ≠ j := fun e => by subst e; omega
    rw [h.above j (by omega), applyToken_cell_other c hij, h1.buf]

theorem ofNat_tokenPhase_ne_fault (slot : Fin 40) :
    BitVec.ofNat 10 (if slot.val = 0 then 0x200 else 0x1C0 + (slot.val - 1)) ≠ faultPhase :=
  phaseAfterToken_slotIndex slot ▸ phaseAfterToken_ne_fault _

/-- The last token steps of a frame, where the pending bits begin with that many tokens: each token
is applied to its own slot, and after slot 0 the block sleeps. -/
theorem execAll_lastTokenSteps (ts : List Token) {s : State} {rest : List Bool}
    (hlen : ts.length ≤ 40) (h : pendingBits s.cfg s.ret = streamOfTokens ts ++ rest) :
    ∃ r, execAll (lastTokenSteps ts.length) s =
        .next { s with ret := r, ph := if ts.length = 0 then s.ph else 0x200 } ∧
      TokensApplied s.cfg ts rest s.ret r := by
  induction ts generalizing s with
  | nil => exact ⟨s.ret, rfl, h, rfl, rfl, fun _ hj => absurd hj (Nat.not_lt_zero _), fun _ _ => rfl⟩
  | cons t ts ih =>
    have hslot : ts.length < 40 := hlen
    have htoken : pendingBits s.cfg s.ret = tokenBits t ++ (streamOfTokens ts ++ rest) := by
      rw [h, ← List.append_assoc]
      rfl
    obtain ⟨r1, e, h1⟩ := fetchToken_of_pending t htoken
    have hexec := exec_decodeToken_of_token ⟨ts.length, hslot⟩ e
    obtain ⟨r, hrun, hr⟩ := ih
      (s := { s with
        ret := applyToken s.cfg ⟨ts.length, hslot⟩ t r1
        ph := BitVec.ofNat 10 (if ts.length = 0 then 0x200 else 0x1C0 + (ts.length - 1)) })
      (by omega) (by cases t <;> exact h1.pending)
    refine ⟨r, ?_, .cons (i := ⟨ts.length, hslot⟩) rfl h1 hr⟩
    rw [List.length_cons, lastTokenSteps_succ,
      execAll_cons hexec (ofNat_tokenPhase_ne_fault ⟨ts.length, hslot⟩), hrun]
    by_cases hz : ts.length = 0 <;> simp [hz]

/-- Settles O56: the induction over the tokens, at the 40 of a whole frame. -/
theorem frameDecodeAppliesEachToken : Obligations.FrameDecodeAppliesEachToken := by
  intro s ts rest hlen h
  obtain ⟨r, hrun, hr⟩ := execAll_lastTokenSteps ts (by omega) h
  rw [hlen] at hrun
  refine ⟨r, hrun, hr.pending, hr.fc, hr.rc, fun i => ?_⟩
  have hcell := hr.cell i (by omega)
  rw [hlen] at hcell
  rw [hcell]
  rcases ts[39 - i.val]? with _ | _ | _ <;> rfl

/-! ### The calls of decodeNext -/

/-- From `s` to `u` only the decoder has run: nothing but the retained group and PH is written, and
in that group RC stands. -/
def DecoderRan (s u : State) : Prop :=
  ∃ r ph, r.rc = s.ret.rc ∧ u = { s with ret := r, ph := ph }

theorem DecoderRan.refl (s : State) : DecoderRan s s := ⟨s.ret, s.ph, rfl, rfl⟩

theorem DecoderRan.trans {s t u : State} (h : DecoderRan s t) (g : DecoderRan t u) :
    DecoderRan s u := by
  obtain ⟨_, _, hrc, rfl⟩ := h
  obtain ⟨r, ph, grc, rfl⟩ := g
  exact ⟨r, ph, grc.trans hrc, rfl⟩

theorem DecoderRan.cfg {s u : State} (h : DecoderRan s u) : u.cfg = s.cfg := by
  obtain ⟨_, _, -, rfl⟩ := h
  rfl

theorem exec_decodeToken_ran {slot : PhaseIndex} {s t : State}
    (h : exec (.decodeToken slot) s = .next t) (hph : t.ph ≠ faultPhase) :
    DecoderRan s t ∧ t.ret.fc = s.ret.fc := by
  rcases execDecodeToken_next h with ⟨-, rfl⟩ | ⟨_, -, -, rfl⟩ | ⟨i, tok, r, -, e, rfl⟩
  · exact absurd rfl hph
  · exact absurd rfl hph
  · obtain ⟨-, hfc, hrc⟩ := fetchToken_frame e
    exact ⟨⟨_, _, (applyToken_rc _ _ _ _).trans hrc, rfl⟩, (applyToken_fc _ _ _ _).trans hfc⟩

/-- Token steps that complete leave FC. -/
theorem execAll_lastTokenSteps_ran {n : Nat} {s u : State}
    (h : execAll (lastTokenSteps n) s = .next u) : DecoderRan s u ∧ u.ret.fc = s.ret.fc := by
  induction n generalizing s with
  | zero => cases h; exact ⟨.refl _, rfl⟩
  | succ n ih =>
    rw [lastTokenSteps_succ] at h
    obtain ⟨t, e, hph, h⟩ := execAll_cons_next h
    obtain ⟨hran, hfc⟩ := exec_decodeToken_ran e hph
    obtain ⟨hran', hfc'⟩ := ih h
    exact ⟨hran.trans hran', hfc'.trans hfc⟩

/-- A call of `decodeNext()` before the loop reset counts one frame. -/
theorem decodeNext_counts {s u : State} (h : execAll decodeNextSteps s = .next u)
    (hne : s.ret.fc ≠ s.cfg.frameCount) : DecoderRan s u ∧ u.ret.fc = s.ret.fc + 1 := by
  obtain ⟨t, e, -, h⟩ := execAll_cons_next h
  rw [(decodeBeginComparesResetsThenCounts s).2 hne] at e
  obtain rfl := Host.Outcome.next.inj e
  obtain ⟨hran, hfc⟩ := execAll_lastTokenSteps_ran (frameTokenSteps_eq ▸ h)
  have hbegin : DecoderRan s _ := ⟨{ s.ret with fc := s.ret.fc + 1 }, 0x1E7, rfl, rfl⟩
  exact ⟨hbegin.trans hran, hfc⟩

theorem decodeCalls_succ_next {n : Nat} {s u : State} (h : decodeCalls (n + 1) s = .next u) :
    ∃ t, execAll decodeNextSteps s = .next t ∧ decodeCalls n t = .next u := by
  rw [decodeCalls] at h
  generalize execAll decodeNextSteps s = o at h ⊢
  cases o with
  | next t => exact ⟨t, rfl, h⟩
  | fault f => cases h
  | refused r => cases h

theorem decodeCalls_succ {n : Nat} {s t : State} (h : execAll decodeNextSteps s = .next t) :
    decodeCalls (n + 1) s = decodeCalls n t := by
  rw [decodeCalls, h]

/-- Calls that complete, and then more calls. -/
theorem decodeCalls_add {m n : Nat} {s u : State} (h : decodeCalls m s = .next u) :
    decodeCalls (m + n) s = decodeCalls n u := by
  induction m generalizing s with
  | zero => cases h; rw [Nat.zero_add]
  | succ m ih =>
    obtain ⟨t, e, h⟩ := decodeCalls_succ_next h
    rw [Nat.succ_add, decodeCalls_succ e, ih h]

/-- Calls up to the last frame of the asset count a frame each. -/
theorem decodeCalls_counts {n : Nat} {s u : State} (h : decodeCalls n s = .next u)
    (hn : s.ret.fc.toNat + n ≤ s.cfg.frameCount.toNat) :
    DecoderRan s u ∧ u.ret.fc.toNat = s.ret.fc.toNat + n := by
  induction n generalizing s with
  | zero => cases h; exact ⟨.refl _, rfl⟩
  | succ n ih =>
    obtain ⟨t, e, h⟩ := decodeCalls_succ_next h
    have hne : s.ret.fc ≠ s.cfg.frameCount := fun e => by rw [e] at hn; omega
    obtain ⟨hran, hfc⟩ := decodeNext_counts e hne
    have hsucc : t.ret.fc.toNat = s.ret.fc.toNat + 1 := by rw [hfc]; bv_omega
    obtain ⟨hran', hfc'⟩ := ih h (by rw [hran.cfg]; omega)
    exact ⟨hran.trans hran', by omega⟩

/-- After the last frame, DECODE_BEGIN leaves what it leaves of the all-zero group (R94). -/
theorem exec_decodeBegin_loops {s u : State} (hzero : s.ret = Retained.zero)
    (hcount : s.cfg.frameCount ≠ 0) (hran : DecoderRan s u) (hfc : u.ret.fc = s.cfg.frameCount) :
    exec .decodeBegin u = exec .decodeBegin s := by
  obtain ⟨r, ph, hrc, rfl⟩ := hran
  have hne : s.ret.fc ≠ s.cfg.frameCount := by rw [hzero]; exact hcount.symm
  rw [(decodeBeginComparesResetsThenCounts _).1 hfc, (decodeBeginComparesResetsThenCounts s).2 hne]
  simp [hrc, hzero, Retained.zero]

/-- Settles O57: at FRAMECOUNT the next DECODE_BEGIN does what the first one did, so all the calls
after it repeat. -/
theorem decoderRepeatsAfterFrameCountCalls : Obligations.DecoderRepeatsAfterFrameCountCalls := by
  intro s u v m hcount hzero hu hv
  have hfc0 : s.ret.fc.toNat = 0 := by rw [hzero]; rfl
  obtain ⟨hran, hfc⟩ := decodeCalls_counts hu (by omega)
  have hbegin := exec_decodeBegin_loops hzero hcount hran
    (BitVec.eq_of_toNat_eq (by omega))
  have hcall : execAll decodeNextSteps u = execAll decodeNextSteps s := by
    rw [decodeNextSteps, execAll, execAll, hbegin]
  refine ⟨v, ?_, rfl⟩
  rw [decodeCalls_add hu, ← hv, Nat.add_comm, decodeCalls, decodeCalls, hcall]

end Sys2Proof.Machine
end

section
/-! SUPPORT. The scanner's configuration and operands (spec/41_scanner.md R110 to R113): each
constraint of R152 in terms of the table or constants it is about, the row and column of a cell, and
the on-time of a pulse. -/

namespace Sys2Proof.Machine

/-! ### Tables as lists -/

theorem toList_eq_ofFn {α : Type} {n : Nat} (v : Vector α n) :
    v.toList = List.ofFn fun i : Fin n => v[i] :=
  List.ext_getElem (by simp) (by simp)

theorem toList_vals_eq_ofFn {m n : Nat} (v : Vector (Fin m) n) :
    v.toList.map Fin.val = List.ofFn fun i : Fin n => v[i].val := by
  rw [toList_eq_ofFn, List.map_ofFn]
  rfl

/-- A table of indices repeats none where different places hold different indices. -/
theorem nodup_toList_vals_iff {m n : Nat} (v : Vector (Fin m) n) :
    (v.toList.map Fin.val).Nodup ↔ ∀ i j : Fin n, v[i] = v[j] → i = j := by
  rw [toList_vals_eq_ofFn, List.nodup_ofFn]
  exact forall₂_congr fun i j => imp_congr_left Fin.val_inj

/-! ### The constraints on the configuration -/

theorem dutyTableLegal_iff (c : Config) :
    dutyTableLegal c = true ↔ c.dutyTable[0] = 0 ∧ c.dutyTable[31] = 255 ∧
      ∀ a b : Fin 32, a ≤ b → c.dutyTable[a].toNat ≤ c.dutyTable[b].toNat := by
  have hmono : neverFalls c.dutyTable.toList = true ↔
      ∀ a b : Fin 32, a ≤ b → c.dutyTable[a].toNat ≤ c.dutyTable[b].toNat := by
    rw [neverFalls_iff_pairwise, toList_eq_ofFn, List.pairwise_ofFn]
    refine ⟨fun h a b hab => ?_, fun h a b hab => h a b hab.le⟩
    rcases hab.eq_or_lt with rfl | hlt
    · exact le_refl _
    · exact h hlt
  simp only [dutyTableLegal, Bool.and_eq_true, beq_iff_eq, hmono, and_assoc]

/-- The lines are pairwise different where the rows' are, the columns' are, and no row has a
column's. -/
theorem wiringLegal_iff (c : Config) :
    wiringLegal c = true ↔
      (∀ y y' : Fin 8, c.rowLine[y] = c.rowLine[y'] → y = y') ∧
      (∀ x x' : Fin 5, c.colLine[x] = c.colLine[x'] → x = x') ∧
      ∀ (y : Fin 8) (x : Fin 5), c.rowLine[y] ≠ c.colLine[x] := by
  rw [wiringLegal, noRepeats_iff_nodup, allLines, List.nodup_append, nodup_toList_vals_iff,
    nodup_toList_vals_iff]
  refine and_congr_right fun _ => and_congr_right fun _ => ?_
  simp only [toList_vals_eq_ofFn, List.forall_mem_ofFn_iff, ne_eq, Fin.val_inj]

theorem scanOrderLegal_iff (c : Config) :
    scanOrderLegal c = true ↔ ∀ k k' : Fin 40, c.scanOrder[k] = c.scanOrder[k'] → k = k' := by
  rw [scanOrderLegal, noRepeats_iff_nodup, nodup_toList_vals_iff]

theorem pulseTimingLegal_iff (c : Config) :
    pulseTimingLegal c = true ↔
      1 ≤ c.pulseMin ∧ 1 ≤ c.pulseSlope ∧ c.pulseMin ≤ c.pulseBase + 2 * c.pulseSlope := by
  simp only [pulseTimingLegal, Bool.and_eq_true, decide_eq_true_eq, and_assoc]

theorem rangesLegal_iff (c : Config) :
    rangesLegal c = true ↔ c.frameCount ≠ 0 ∧ c.refreshPerFrame ≠ 0 ∧ c.streamLen ≠ 0 ∧
      c.refreshRate ≠ 0 ∧ c.clkHz ≠ 0 := by
  simp only [rangesLegal, Bool.and_eq_true, bne_iff_ne, and_assoc]

theorem intervalsLegal_iff (c : Config) :
    intervalsLegal c = true ↔ 0 < c.defaultInterval ∧ c.defaultInterval < c.steadyInterval := by
  simp only [intervalsLegal, Bool.and_eq_true, decide_eq_true_eq]

theorem legal_iff (c : Config) :
    legal c = true ↔ dutyTableLegal c = true ∧ wiringLegal c = true ∧ scanOrderLegal c = true ∧
      pulseTimingLegal c = true ∧ rangesLegal c = true ∧ intervalsLegal c = true := by
  simp only [legal, Bool.and_eq_true, and_assoc]

/-- Settles O42: the six constraints, each by its own equivalence. -/
theorem legalConfigurationMeetsEveryConstraint :
    Obligations.LegalConfigurationMeetsEveryConstraint := by
  intro c
  rw [legal_iff, dutyTableLegal_iff, wiringLegal_iff, scanOrderLegal_iff, pulseTimingLegal_iff,
    rangesLegal_iff, intervalsLegal_iff]

/-! ### The cell and its lines -/

/-- Settles O18: division with remainder. -/
theorem cellIndexIsRowTimesFivePlusColumn : Obligations.CellIndexIsRowTimesFivePlusColumn :=
  fun i => ⟨rfl, rfl, Nat.div_add_mod i.val 5⟩

/-- The two lines of a cell are its row's and its column's, the row's HIGH for polarity 1. -/
theorem lines_of_cell (c : Config) (i : Fin 40) :
    (c.rowPol[rowOf i] = 1 ∧ highLine c i = c.rowLine[rowOf i] ∧
      lowLine c i = c.colLine[colOf i]) ∨
    (c.rowPol[rowOf i] ≠ 1 ∧ highLine c i = c.colLine[colOf i] ∧
      lowLine c i = c.rowLine[rowOf i]) := by
  by_cases h : c.rowPol[rowOf i] = 1
  · exact .inl ⟨h, if_pos h, if_pos h⟩
  · exact .inr ⟨h, if_neg h, if_neg h⟩

theorem rowLine_ne_colLine {c : Config} (h : wiringLegal c = true) (i : Fin 40) :
    c.rowLine[rowOf i] ≠ c.colLine[colOf i] :=
  ((wiringLegal_iff c).1 h).2.2 _ _

theorem highLine_ne_lowLine {c : Config} (h : wiringLegal c = true) (i : Fin 40) :
    highLine c i ≠ lowLine c i := by
  have hne := rowLine_ne_colLine h i
  rcases lines_of_cell c i with ⟨-, ehi, elo⟩ | ⟨-, ehi, elo⟩ <;> rw [ehi, elo]
  · exact hne
  · exact hne.symm

/-! ### The on-time of a pulse -/

theorem onTime_zero (c : Config) : onTime c 0 = 0 := rfl

theorem onTime_one (c : Config) : onTime c 1 = c.pulseMin := rfl

theorem onTime_of_two_le (c : Config) {d : Byte} (h : 2 ≤ d.toNat) :
    onTime c d = c.pulseBase + c.pulseSlope * d.toNat := by
  have h0 : d ≠ 0 := by rintro rfl; exact absurd h (by decide)
  have h1 : d ≠ 1 := by rintro rfl; exact absurd h (by decide)
  rw [onTime, if_neg h0, if_neg h1]

/-- Under the constraints of R112 no pulse is shorter than PULSE_MIN. -/
theorem pulseMin_le_onTime {c : Config} (h : pulseTimingLegal c = true) {d : Byte} (hd : d ≠ 0) :
    c.pulseMin ≤ onTime c d := by
  obtain ⟨-, -, hmin⟩ := (pulseTimingLegal_iff c).1 h
  by_cases h1 : d = 1
  · exact h1 ▸ le_refl _
  · have h2 : 2 ≤ d.toNat := by bv_omega
    have hslope : c.pulseSlope * 2 ≤ c.pulseSlope * d.toNat := Nat.mul_le_mul_left _ h2
    rw [onTime_of_two_le c h2]
    omega

theorem onTime_lt_of_lt {c : Config} (h : pulseTimingLegal c = true) {d e : Byte}
    (hd : 2 ≤ d.toNat) (hde : d.toNat < e.toNat) : onTime c d < onTime c e := by
  obtain ⟨-, hslope, -⟩ := (pulseTimingLegal_iff c).1 h
  rw [onTime_of_two_le c hd, onTime_of_two_le c (hd.trans hde.le)]
  exact Nat.add_lt_add_left (Nat.mul_lt_mul_of_pos_left hde hslope) _

/-- Settles O19: the three ranges of the duty, and the order that the constraints give. -/
theorem onTimeFollowsTheTimingRule : Obligations.OnTimeFollowsTheTimingRule := by
  refine fun c => ⟨onTime_zero c, onTime_one c, fun d hd => onTime_of_two_le c hd,
    fun h => ⟨fun d hd => ?_, fun d e hd hde => onTime_lt_of_lt h hd hde⟩⟩
  have hle := pulseMin_le_onTime h hd
  obtain ⟨hpos, -, -⟩ := (pulseTimingLegal_iff c).1 h
  exact ⟨by omega, hle⟩

end Sys2Proof.Machine
end

section
/-! SUPPORT. The scan of a refresh (spec/41_scanner.md R114 to R118): the lines of a held pulse, what
each SCAN_CELL adds to the trace and leaves unchanged, and the cell steps by induction over the
positions. -/

namespace Sys2Proof.Machine

/-! ### A pulse -/

/-- While a pulse is held, its two lines are driven and the others are as before. -/
theorem activatePair_line (i : Fin 40) (s : State) (l : Fin 13) :
    (activatePair i s).lines[l] =
      if l = lowLine s.cfg i then .low
      else if l = highLine s.cfg i then .high else s.lines[l] := by
  simp only [activatePair, drive_lines, Fin.getElem_fin, Vector.getElem_set, Fin.ext_iff,
    eq_comm (a := l.val)]

/-- Settles O21: the pair is the cell's row and column, two lines of a legal wiring. -/
theorem heldPulseDrivesOneRowAndOneColumn : Obligations.HeldPulseDrivesOneRowAndOneColumn := by
  intro s i hw hoff held row col
  have hne : row ≠ col := rowLine_ne_colLine hw i
  rcases lines_of_cell s.cfg i with ⟨hpol, ehi, elo⟩ | ⟨hpol, ehi, elo⟩
  all_goals
    have hline := activatePair_line i s
    rw [ehi, elo] at hline
    refine ⟨hne, ?_, fun l hrow hcol => ?_⟩
  · rw [if_pos hpol]
    exact ⟨by rw [hline, if_neg hne, if_pos rfl], by rw [hline, if_pos rfl]⟩
  · rw [hline, if_neg hcol, if_neg hrow, hoff]
  · rw [if_neg hpol]
    exact ⟨by rw [hline, if_pos rfl], by rw [hline, if_neg hne.symm, if_pos rfl]⟩
  · rw [hline, if_neg hrow, if_neg hcol, hoff]

/-- A pulse changes nothing but the trace and, where not all of them were OFF, the lines. -/
theorem drivePulse_eq (k i : Fin 40) (d : Byte) (s : State) :
    ∃ ls, drivePulse k i d s =
        { s with lines := ls, trace := s.trace ++ [pulseRecord s.cfg k i d] } ∧
      (linesOff s → ls = s.lines) := by
  refine ⟨(drivePulse k i d s).lines, rfl, fun h => Vector.ext fun l hl => ?_⟩
  exact (linesOff_drivePulse h k i d ⟨l, hl⟩).trans (h ⟨l, hl⟩).symm

/-- The record of a pulse by the cell's row and column (R82, R113, R114). -/
theorem pulseRecord_eq (c : Config) (k i : Fin 40) (d : Byte) :
    pulseRecord c k i d =
      let row := c.rowLine[rowOf i]
      let col := c.colLine[colOf i]
      let rowHigh : Bool := c.rowPol[rowOf i] == 1
      { k := k.val
        i := i.val
        y := i.val / 5
        x := i.val % 5
        hiLine := if rowHigh then row.val else col.val
        loLine := if rowHigh then col.val else row.val
        d := d.toNat
        on := onTime c d } := by
  rcases lines_of_cell c i with ⟨hpol, ehi, elo⟩ | ⟨hpol, ehi, elo⟩
  · simp only [pulseRecord, ehi, elo, beq_iff_eq, if_pos hpol]
    rfl
  · simp only [pulseRecord, ehi, elo, beq_iff_eq, if_neg hpol]
    rfl

/-! ### SCAN_CELL -/

/-- The record of the cell at a scan position, where the cell is not dark (R115). -/
def cellPulse (c : Config) (r : Retained) (k : Fin 40) : Option Pulse :=
  if readCell r c.scanOrder[k] = 0 then none
  else some (pulseRecord c k c.scanOrder[k] (readCell r c.scanOrder[k]))

theorem cellPulse_of_dark {c : Config} {r : Retained} {k : Fin 40}
    (h : readCell r c.scanOrder[k] = 0) : cellPulse c r k = none := if_pos h

theorem cellPulse_of_lit {c : Config} {r : Retained} {k : Fin 40}
    (h : readCell r c.scanOrder[k] ≠ 0) :
    cellPulse c r k = some (pulseRecord c k c.scanOrder[k] (readCell r c.scanOrder[k])) := if_neg h

/-- The phase after a scan position, as a number (R77, R115). -/
theorem phaseAfterCell_position (k : Fin 40) :
    phaseAfterCell (BitVec.ofNat 6 k.val) =
      BitVec.ofNat 10 (if k.val = 39 then 0x140 else 0x100 + (k.val + 1)) := by
  have hk := toNat_slotIndex k
  rcases phaseAfterCell_cases (k := BitVec.ofNat 6 k.val) (by omega) with
    ⟨hlast, e⟩ | ⟨hlt, e, hadd⟩
  · rw [hlast] at hk
    have hlast : k.val = 39 := hk.symm
    rw [e, if_pos hlast, scanEndPhase_eq]
    rfl
  · rw [e, if_neg (by omega), scanCellPhase_eq, hadd, hk]

/-- SCAN_CELL adds the record of its cell, if any, and goes on; lines that are OFF stay so. -/
theorem exec_scanCell (k : Fin 40) (s : State) :
    ∃ ls, exec (.scanCell (BitVec.ofNat 6 k.val)) s = .next { s with
        ph := phaseAfterCell (BitVec.ofNat 6 k.val)
        lines := ls
        trace := s.trace ++ (cellPulse s.cfg s.ret k).toList } ∧
      (linesOff s → ls = s.lines) := by
  simp only [exec, execScanCell, cellOperand_slotIndex]
  by_cases hd : readCell s.ret s.cfg.scanOrder[k] = 0
  · rw [if_pos hd, cellPulse_of_dark hd, Option.toList_none, List.append_nil]
    exact ⟨s.lines, rfl, fun _ => rfl⟩
  · obtain ⟨ls, e, hls⟩ := drivePulse_eq k s.cfg.scanOrder[k] (readCell s.ret s.cfg.scanOrder[k]) s
    rw [if_neg hd, cellPulse_of_lit hd, e]
    exact ⟨ls, rfl, hls⟩

/-- Settles O20: the record, field by field. -/
theorem scanCellPulsesLitCellsOnly : Obligations.ScanCellPulsesLitCellsOnly := by
  intro s k hoff
  obtain ⟨ls, e, hls⟩ := exec_scanCell k s
  rw [e, hls hoff, phaseAfterCell_position]
  by_cases hd : s.ret.buf[s.cfg.scanOrder[k]] = 0
  · simp only [cellPulse_of_dark hd, if_pos hd, Option.toList_none, List.append_nil]
  · simp only [cellPulse_of_lit hd, if_neg hd, Option.toList_some, pulseRecord_eq]
    rfl

/-! ### The cell steps of a refresh -/

/-- The SCAN_CELL steps of some positions. -/
def cellSteps (ks : List (Fin 40)) : List Instr :=
  ks.map fun k => .scanCell (BitVec.ofNat 6 k.val)

theorem scanCellSteps_eq : scanCellSteps = cellSteps (List.finRange 40) := by
  rw [scanCellSteps, ← List.map_coe_finRange_eq_range, List.map_map]
  rfl

/-- The SCAN_CELL steps of some positions add the records of the lit cells there, in that order. -/
theorem execAll_cellSteps (ks : List (Fin 40)) (s : State) :
    ∃ ls, execAll (cellSteps ks) s = .next { s with
        ph := ks.foldl (fun _ k => phaseAfterCell (BitVec.ofNat 6 k.val)) s.ph
        lines := ls
        trace := s.trace ++ ks.filterMap (cellPulse s.cfg s.ret) } ∧
      (linesOff s → ls = s.lines) := by
  induction ks generalizing s with
  | nil => exact ⟨s.lines, by simp [cellSteps], fun _ => rfl⟩
  | cons k ks ih =>
    obtain ⟨ls, e, hls⟩ := exec_scanCell k s
    have hph := phaseAfterCell_ne_fault (k := BitVec.ofNat 6 k.val)
      (by rw [toNat_slotIndex]; exact k.isLt)
    obtain ⟨ls', e', hls'⟩ := ih _
    refine ⟨ls', (execAll_cons e hph).trans (e'.trans ?_), fun h => ?_⟩
    · cases hp : cellPulse s.cfg s.ret k <;> simp [hp]
    · have hsame := hls h
      subst hsame
      exact hls' h

/-- All 40 cell steps end at SCAN_END (R117). -/
theorem execAll_scanCellSteps (s : State) :
    ∃ ls, execAll scanCellSteps s = .next { s with
        ph := scanEndPhase
        lines := ls
        trace := s.trace ++ (List.finRange 40).filterMap (cellPulse s.cfg s.ret) } ∧
      (linesOff s → ls = s.lines) := by
  obtain ⟨ls, e, hls⟩ := execAll_cellSteps (List.finRange 40) s
  refine ⟨ls, ?_, hls⟩
  rw [scanCellSteps_eq, e, List.finRange_succ_last, List.foldl_append]
  rfl

/-- Settles O23: the cell steps with the lines OFF throughout. -/
theorem refreshEmitsLitCellsInScanOrder : Obligations.RefreshEmitsLitCellsInScanOrder := by
  intro s hoff
  obtain ⟨ls, e, hls⟩ := execAll_scanCellSteps s
  rw [e, hls hoff, scanEndPhase_eq]
  rfl

/-- SCAN_ORDER visits every cell once (R111). -/
theorem scanOrder_perm {c : Config} (h : scanOrderLegal c = true) :
    (List.ofFn fun k : Fin 40 => c.scanOrder[k].val).Perm (List.range 40) := by
  rw [scanOrderLegal, noRepeats_iff_nodup, toList_vals_eq_ofFn] at h
  refine (List.subperm_of_subset h fun i hi => ?_).perm_of_length_le (by simp)
  obtain ⟨k, rfl⟩ := List.mem_ofFn.1 hi
  exact List.mem_range.2 c.scanOrder[k].isLt

/-- Settles O24: no cell is dark, so each of the 40 positions adds the record of its cell. -/
theorem fullBrightRefreshVisitsEveryCellOnce :
    Obligations.FullBrightRefreshVisitsEveryCellOnce := by
  intro s hl hoff hbuf
  obtain ⟨-, hwiring, horder, -⟩ := (legal_iff s.cfg).1 hl
  have hcell : ∀ i, readCell s.ret i = 255 := hbuf
  have hlit : ∀ k, cellPulse s.cfg s.ret k = some (pulseRecord s.cfg k s.cfg.scanOrder[k] 255) :=
    fun k => by rw [cellPulse, hcell, if_neg (by decide)]
  obtain ⟨ls, e, -⟩ := execAll_scanCellSteps s
  refine ⟨_, _, e, rfl, ?_, fun p hp => ?_⟩
  · rw [List.filterMap_congr fun k _ => hlit k, List.filterMap_eq_map', List.map_map,
      ← List.ofFn_eq_map]
    exact scanOrder_perm horder
  · obtain ⟨k, -, hk⟩ := List.mem_filterMap.1 hp
    obtain rfl := Option.some.inj ((hlit k).symm.trans hk)
    exact ⟨rfl, Fin.val_ne_of_ne (highLine_ne_lowLine hwiring _)⟩

end Sys2Proof.Machine
end

section
/-! SUPPORT. The refresh counter (spec/41_scanner.md R116, R120): what SCAN_END makes of it, and that
whole refreshes count like bare SCAN_ENDs, since neither the cell steps nor the decode write it. -/

namespace Sys2Proof.Machine

/-! ### SCAN_END -/

theorem exec_scanEnd_of_due {s : State} (h : s.ret.rc + 1 = s.cfg.refreshPerFrame) :
    exec .scanEnd s = .next { s with ret := { s.ret with rc := 0 }, ph := 0x180 } := by
  rw [exec, execScanEnd, if_pos (show decodeDue s = true from beq_iff_eq.2 h), decodeBeginPhase_eq]
  rfl

theorem exec_scanEnd_of_not_due {s : State} (h : s.ret.rc + 1 ≠ s.cfg.refreshPerFrame) :
    exec .scanEnd s = .next { s with ret := { s.ret with rc := s.ret.rc + 1 }, ph := 0x200 } := by
  rw [exec, execScanEnd, if_neg (show ¬ decodeDue s = true from fun e => h (beq_iff_eq.1 e)),
    sleepPhase_eq]
  rfl

/-- Settles O22: the two branches. -/
theorem scanEndCountsTheRefresh : Obligations.ScanEndCountsTheRefresh :=
  fun _ => ⟨exec_scanEnd_of_due, exec_scanEnd_of_not_due⟩

/-! ### Counting refreshes -/

/-- `t` is where the m-th refresh since the counter was 0 ends, under the configuration and with the
buffer of `s`: RC is m modulo REFRESH_PER_FRAME, and a decode starts where that is 0. -/
structure RefreshCounted (s t : State) (m : Nat) : Prop where
  cfg : t.cfg = s.cfg
  buf : t.ret.buf = s.ret.buf
  rc : t.ret.rc.toNat = m % s.cfg.refreshPerFrame.toNat
  ph : t.ph = if s.cfg.refreshPerFrame.toNat ∣ m then 0x180 else 0x200

/-- An earlier state with the same configuration and buffer counts alike. -/
theorem RefreshCounted.of_earlier {s u t : State} {m : Nat} (h : RefreshCounted u t m)
    (hcfg : u.cfg = s.cfg) (hbuf : u.ret.buf = s.ret.buf) : RefreshCounted s t m :=
  ⟨h.cfg.trans hcfg, h.buf.trans hbuf, hcfg ▸ h.rc, hcfg ▸ h.ph⟩

theorem RefreshCounted.ph_iff {s t : State} {m : Nat} (h : RefreshCounted s t m) :
    (t.ph = 0x180 ↔ s.cfg.refreshPerFrame.toNat ∣ m) ∧
      (t.ph = 0x200 ↔ ¬ s.cfg.refreshPerFrame.toNat ∣ m) := by
  rw [h.ph]
  by_cases hd : s.cfg.refreshPerFrame.toNat ∣ m <;> simp [hd]

theorem RefreshCounted.ph_ne_fault {s t : State} {m : Nat} (h : RefreshCounted s t m) :
    t.ph ≠ faultPhase := by
  rw [h.ph]
  split <;> decide

/-- One SCAN_END counts one refresh. -/
theorem exec_scanEnd_counts {s : State} {m : Nat} (hpos : s.cfg.refreshPerFrame ≠ 0)
    (hrc : s.ret.rc.toNat = m % s.cfg.refreshPerFrame.toNat) :
    ∃ t, exec .scanEnd s = .next t ∧ RefreshCounted s t (m + 1) := by
  have hlt : m % s.cfg.refreshPerFrame.toNat < s.cfg.refreshPerFrame.toNat :=
    Nat.mod_lt _ (by bv_omega)
  have hsucc : (s.ret.rc + 1).toNat = m % s.cfg.refreshPerFrame.toNat + 1 := by bv_omega
  have hmod : (m + 1) % s.cfg.refreshPerFrame.toNat =
      (s.ret.rc + 1).toNat % s.cfg.refreshPerFrame.toNat := by rw [hsucc, Nat.mod_add_mod]
  by_cases hdue : s.ret.rc + 1 = s.cfg.refreshPerFrame
  · rw [hdue, Nat.mod_self] at hmod
    exact ⟨_, exec_scanEnd_of_due hdue, rfl, rfl, hmod.symm,
      (if_pos (Nat.dvd_of_mod_eq_zero hmod)).symm⟩
  · have hbelow : (s.ret.rc + 1).toNat < s.cfg.refreshPerFrame.toNat := by bv_omega
    rw [Nat.mod_eq_of_lt hbelow] at hmod
    have hnd : ¬ s.cfg.refreshPerFrame.toNat ∣ m + 1 := fun hd => by
      rw [Nat.mod_eq_zero_of_dvd hd] at hmod
      omega
    exact ⟨_, exec_scanEnd_of_not_due hdue, rfl, rfl, hmod.symm, (if_neg hnd).symm⟩

/-- Bare SCAN_ENDs, one after another, count a refresh each. -/
theorem execAll_scanEnds_counts {s : State} {m : Nat} (n : Nat) (hpos : s.cfg.refreshPerFrame ≠ 0)
    (hrc : s.ret.rc.toNat = m % s.cfg.refreshPerFrame.toNat) :
    ∃ t, execAll (List.replicate (n + 1) .scanEnd) s = .next t ∧
      RefreshCounted s t (m + (n + 1)) := by
  induction n generalizing s m with
  | zero =>
    obtain ⟨t, e, ht⟩ := exec_scanEnd_counts hpos hrc
    exact ⟨t, execAll_cons e ht.ph_ne_fault, ht⟩
  | succ n ih =>
    obtain ⟨u, e, hu⟩ := exec_scanEnd_counts hpos hrc
    obtain ⟨t, e', ht⟩ := ih (s := u) (hu.cfg ▸ hpos) (hu.cfg ▸ hu.rc)
    refine ⟨t, (execAll_cons e hu.ph_ne_fault).trans e', ?_⟩
    rw [show m + (n + 1 + 1) = m + 1 + (n + 1) by omega]
    exact ht.of_earlier hu.cfg hu.buf

/-! ### Whole refreshes -/

/-- The 41 steps of a refresh complete whatever the lines are, and count it. -/
theorem execAll_refreshSteps_counts {s : State} {m : Nat} (hpos : s.cfg.refreshPerFrame ≠ 0)
    (hrc : s.ret.rc.toNat = m % s.cfg.refreshPerFrame.toNat) :
    ∃ t, execAll refreshSteps s = .next t ∧ RefreshCounted s t (m + 1) := by
  obtain ⟨ls, e, -⟩ := execAll_scanCellSteps s
  rw [refreshSteps, execAll_append e]
  obtain ⟨t, e', ht⟩ := exec_scanEnd_counts (s := { s with
    ph := scanEndPhase
    lines := ls
    trace := s.trace ++ (List.finRange 40).filterMap (cellPulse s.cfg s.ret) }) hpos hrc
  exact ⟨t, execAll_cons e' ht.ph_ne_fault, ht.of_earlier rfl rfl⟩

/-- A call of `decodeNext()` that completes is the decoder's alone: it leaves RC. -/
theorem decodeNext_ran {s u : State} (h : execAll decodeNextSteps s = .next u) :
    DecoderRan s u := by
  obtain ⟨t, e, -, h⟩ := execAll_cons_next h
  have hbegin : DecoderRan s t := by
    obtain ⟨r, hr, rfl⟩ := execDecodeBegin_next e
    refine ⟨_, _, ?_, rfl⟩
    rcases hr with ⟨-, rfl⟩ | ⟨-, rfl⟩ <;> rfl
  exact hbegin.trans (execAll_lastTokenSteps_ran (frameTokenSteps_eq ▸ h)).1

theorem DecoderRan.rc {s u : State} (h : DecoderRan s u) : u.ret.rc = s.ret.rc := by
  obtain ⟨_, _, hrc, rfl⟩ := h
  exact hrc

/-- A refresh that completes, with its decode, counts one refresh. -/
theorem refresh_counts {s u : State} {m : Nat} (hpos : s.cfg.refreshPerFrame ≠ 0)
    (hrc : s.ret.rc.toNat = m % s.cfg.refreshPerFrame.toNat) (h : refresh s = .next u) :
    u.cfg = s.cfg ∧ u.ret.rc.toNat = (m + 1) % s.cfg.refreshPerFrame.toNat := by
  obtain ⟨t, e, ht⟩ := execAll_refreshSteps_counts hpos hrc
  obtain ⟨t', e', hdecode⟩ := refresh_next h
  obtain rfl := Host.Outcome.next.inj (e.symm.trans e')
  rcases hdecode with ⟨-, hdecode⟩ | ⟨-, rfl⟩
  · have hran := decodeNext_ran hdecode
    exact ⟨hran.cfg.trans ht.cfg, hran.rc ▸ ht.rc⟩
  · exact ⟨ht.cfg, ht.rc⟩

/-- Refreshes that complete count one each. -/
theorem refreshes_counts {n : Nat} {s u : State} {m : Nat} (hpos : s.cfg.refreshPerFrame ≠ 0)
    (hrc : s.ret.rc.toNat = m % s.cfg.refreshPerFrame.toNat) (h : refreshes n s = .next u) :
    u.cfg = s.cfg ∧ u.ret.rc.toNat = (m + n) % s.cfg.refreshPerFrame.toNat := by
  induction n generalizing s m with
  | zero => cases h; exact ⟨rfl, hrc⟩
  | succ n ih =>
    obtain ⟨t, e, h⟩ := refreshes_succ_next h
    obtain ⟨hcfg, hrc'⟩ := refresh_counts hpos hrc e
    rw [← hcfg] at hpos hrc' ⊢
    rw [show m + (n + 1) = m + 1 + n by omega]
    exact ih hpos hrc' h

/-- Settles O25: from RC = 0 the count of either kind of refresh is the number of them. -/
theorem decodeFollowsEveryNthRefresh : Obligations.DecodeFollowsEveryNthRefresh := by
  have hstart : ∀ s : State, s.ret.rc = 0 →
      s.ret.rc.toNat = 0 % s.cfg.refreshPerFrame.toNat := fun s h => by
    rw [h, Nat.zero_mod]
    rfl
  refine ⟨fun s n hpos hzero hn => ?_, fun s u n hpos hzero h => ?_⟩
  · obtain ⟨n, rfl⟩ : ∃ k, n = k + 1 := ⟨n - 1, by omega⟩
    obtain ⟨t, e, ht⟩ := execAll_scanEnds_counts n hpos (hstart s hzero)
    rw [Nat.zero_add] at ht
    exact ⟨t, e, ht.rc, ht.ph_iff⟩
  · obtain ⟨hcfg, hrc⟩ := refreshes_counts hpos (hstart s hzero) h
    rw [Nat.zero_add] at hrc
    rw [← hcfg] at hpos hrc ⊢
    obtain ⟨t, e, ht⟩ := execAll_refreshSteps_counts hpos hrc
    exact ⟨t, e, ht.buf, ht.rc, ht.ph_iff⟩

end Sys2Proof.Machine
end

section
/-! SUPPORT. The controller's instructions and the events, each as one equation on the named
operations of the state (spec/42_controller.md R130 to R137). -/

namespace Sys2Proof.Machine

/-! ### The controller's instructions -/

theorem exec_dispatch_warm {s : State} (h : s.cause = 1) :
    exec .dispatch s = .next (setPhase (armTimerPhase 1) s) := by
  rw [exec, execDispatch, resetCause, if_pos h]

theorem exec_dispatch_cold {s : State} (h : s.cause ≠ 1) :
    exec .dispatch s = .next (setPhase coldInitPhase s) := by
  rw [exec, execDispatch, resetCause, if_neg h]

theorem exec_coldInit (s : State) :
    exec .coldInit s = .next (setPhase (armTimerPhase 0) { s with ret := Retained.zero }) := rfl

theorem exec_armTimer_cold (s : State) :
    exec (.armTimer 0) s = .next (setPhase sleepPhase { s with wtInt := 1, wtCnt := 0 }) := rfl

theorem exec_armTimer_warm (s : State) :
    exec (.armTimer 1) s =
      .next (setPhase (scanCellPhase 0) { s with wtInt := 1, wtCnt := 0 }) := rfl

theorem exec_sleep (s : State) : exec .sleep s = .next s := rfl

/-- Settles O26: CAUSE alone decides the path, and each path begins at its own phase. -/
theorem dispatchChoosesThePathByCause : Obligations.DispatchChoosesThePathByCause := by
  intro s
  rw [← armTimerPhase_warm, ← coldInitPhase_eq]
  exact ⟨exec_dispatch_warm, exec_dispatch_cold⟩

/-- Settles O27, by `exec_coldInit`: `Retained.zero` has every element 0. -/
theorem coldInitZeroesTheRetainedGroup : Obligations.ColdInitZeroesTheRetainedGroup := by
  intro s
  rw [exec_coldInit, armTimerPhase_cold]
  rfl

/-- Settles O28, by one equation for each path. -/
theorem armTimerRestartsTheSteadyInterval : Obligations.ArmTimerRestartsTheSteadyInterval := by
  intro s
  rw [exec_armTimer_cold, exec_armTimer_warm, sleepPhase_eq, scanCellPhase_eq]
  exact ⟨rfl, rfl⟩

/-- Settles O29: the time that passes in SLEEP is the boundary's to charge, not the instruction's. -/
theorem sleepWritesNoState : Obligations.SleepWritesNoState := exec_sleep

/-! ### The events -/

theorem resetEntry_eq (c : EventCode) (s : State) :
    resetEntry c s = { s with
      ph := 0x040, lines := Vector.replicate 13 .off, cause := c, wtInt := 0, wtCnt := 0 } := by
  rw [resetEntry, dispatchPhase_eq]

theorem exec_timeout_asleep {s : State} (h : s.ph = sleepPhase) :
    exec .timeout s = .next (resetEntry 1 s) := if_pos h

theorem exec_timeout_awake {s : State} (h : s.ph ≠ sleepPhase) :
    exec .timeout s = .next (raiseFault .wakeOverrun s) := if_neg h

theorem exec_externalReset (s : State) : exec .externalReset s = .next (resetEntry 2 s) := rfl

theorem exec_otherReset (s : State) : exec .otherReset s = .next (resetEntry 3 s) := rfl

/-- Settles O31: the draw and the run's new records, and then RESET(0). -/
theorem powerOnDrawsTheRetainedGroup : Obligations.PowerOnDrawsTheRetainedGroup := by
  intro s
  rw [exec, execPowerOn, resetEntry_eq]

/-- Settles O32: RESET(1) in SLEEP, and the fault at any other phase. -/
theorem timeoutWakesASleepingBlock : Obligations.TimeoutWakesASleepingBlock := by
  intro s
  rw [← sleepPhase_eq, ← resetEntry_eq, ← raiseFault_eq]
  exact ⟨exec_timeout_asleep, exec_timeout_awake⟩

/-- Settles O33: both environment resets are the reset entry, with their own cause. -/
theorem environmentResetsWriteTheVolatileGroup :
    Obligations.EnvironmentResetsWriteTheVolatileGroup := by
  intro s
  rw [← resetEntry_eq, ← resetEntry_eq]
  exact ⟨exec_externalReset s, exec_otherReset s⟩

end Sys2Proof.Machine
end

section
/-! SUPPORT. That the machine goes on: every instruction but FAULT has a next state, so every step of
an unfaulted run has one, and where no event comes first it is that of the instruction PH decodes to
(spec/42_controller.md R140). -/

namespace Sys2Proof.Machine

/-- Every instruction but FAULT has a next state. -/
theorem exec_exists_next {i : Instr} (s : State) (h : i ≠ .fault) : ∃ t, exec i s = .next t := by
  cases i with
  | keep =>
    dsimp only [exec, execKeep]
    split
    · exact ⟨_, rfl⟩
    · split <;> exact ⟨_, rfl⟩
  | set l =>
    dsimp only [exec, execSet]
    split
    · exact ⟨_, rfl⟩
    · split <;> exact ⟨_, rfl⟩
  | dispatch =>
    dsimp only [exec, execDispatch]
    split <;> exact ⟨_, rfl⟩
  | scanCell k =>
    dsimp only [exec, execScanCell]
    split <;> exact ⟨_, rfl⟩
  | scanEnd =>
    dsimp only [exec, execScanEnd]
    split <;> exact ⟨_, rfl⟩
  | decodeToken slot =>
    dsimp only [exec, execDecodeToken]
    split
    · exact ⟨_, rfl⟩
    · split <;> exact ⟨_, rfl⟩
  | timeout =>
    dsimp only [exec, execTimeout]
    split <;> exact ⟨_, rfl⟩
  | fault => exact absurd rfl h
  | coldInit | armTimer | decodeBegin | sleep | illegal | powerOn | externalReset | otherReset =>
    exact ⟨_, rfl⟩

theorem decodePhase_ne_fault {ph : Phase} (h : ph ≠ faultPhase) : decodePhase ph ≠ .fault := by
  intro e
  have hcode := encode_decodePhase ph
  rw [e] at hcode
  exact h (Code.phase.inj hcode).symm

/-- FAULT is selected in a faulted state of a run only. -/
theorem select_ne_fault {s : State} (h : s.started = true → s.ph ≠ faultPhase) :
    select s ≠ .fault := by
  rcases select_cases s with ⟨-, e⟩ | ⟨hs, hf, -⟩ | ⟨-, -, i, ha, e⟩ | ⟨-, -, -, -, e⟩ |
    ⟨-, hp, -, -, e⟩
  · simp [e]
  · exact absurd hf (h hs)
  · rcases arrivingReset_cases ha with rfl | rfl <;> simp [e]
  · simp [e]
  · rw [e]
    exact decodePhase_ne_fault hp

/-- A step of a legal configuration is its selected instruction and the boundary's bookkeeping. -/
theorem step_of_select {s u : State} {i : Instr} (hl : legal s.cfg = true) (hi : select s = i)
    (hu : exec i s = .next u) : step s = .next (settle i s u) := by
  subst hi
  simp [step, hl, hu]

theorem step_exists_next {s : State} (hl : legal s.cfg = true)
    (h : s.started = true → s.ph ≠ faultPhase) : ∃ t, step s = .next t := by
  obtain ⟨u, hu⟩ := exec_exists_next s (select_ne_fault h)
  exact ⟨_, step_of_select hl rfl hu⟩

/-- Where no event comes first, PH selects. -/
theorem select_of_decode {s : State} {i : Instr} (hs : s.started = true) (hp : s.ph ≠ faultPhase)
    (ha : arrivingReset s = none) (hd : decodePhase s.ph = i) (ht : timerExpires i s = false) :
    select s = i := by
  simp [select, hs, hp, ha, hd, ht]

/-- Settles O37: selection answers the decoded instruction, which is not FAULT and so has a next
state. -/
theorem stepRunsTheDecodedInstruction : Obligations.StepRunsTheDecodedInstruction := by
  intro s i hl hs hp ha hd ht
  rw [← faultPhase_eq] at hp
  obtain ⟨t, he⟩ := exec_exists_next s (hd ▸ decodePhase_ne_fault hp)
  exact ⟨t, he, step_of_select hl (select_of_decode hs hp ha hd ht) he⟩

end Sys2Proof.Machine
end

section
/-! SUPPORT. A block in SLEEP: it sleeps on or is reset, and undisturbed it waits out the interval
(spec/42_controller.md R135, spec/60_exceptions.md R160, R165). -/

namespace Sys2Proof.Machine

/-- A reset leaves WT_CNT at 0, also after the boundary's bookkeeping (R160). -/
theorem settle_resetEntry_wtCnt {i : Instr} (h : writesCount i = true) (c : EventCode) (s : State) :
    (settle i s (resetEntry c s)).wtCnt = 0 := by
  rw [settle_running (show dispatchPhase ≠ faultPhase by decide)]
  simp [h]

/-- What a step of a sleeping block can do: time passes, or one of the three events that reset a
running block comes. -/
theorem step_asleep_cases {s t : State} (hs : s.started = true) (hp : s.ph = sleepPhase)
    (h : step s = .next t) :
    t = settle .sleep s s ∨
    ∃ i c, writesCount i = true ∧ (c = 1 ∨ c = 2 ∨ c = 3) ∧ t = settle i s (resetEntry c s) := by
  obtain ⟨-, u, hu, rfl⟩ := step_next h
  rcases select_event_or_decodePhase s with e | e | e | e | e
  · exact absurd e (select_ne_powerOn hs)
  all_goals rw [e] at hu ⊢
  · rw [exec_timeout_asleep hp] at hu
    cases hu
    exact .inr ⟨_, 1, rfl, by simp, rfl⟩
  · cases hu
    exact .inr ⟨_, 2, rfl, by simp, rfl⟩
  · cases hu
    exact .inr ⟨_, 3, rfl, by simp, rfl⟩
  · rw [hp, decodePhase_sleep] at hu ⊢
    cases hu
    exact .inl rfl

/-- Settles O30: passing time writes the clocks alone, and a reset the volatile group. -/
theorem sleepIsLeftOnlyByAReset : Obligations.SleepIsLeftOnlyByAReset := by
  intro s t hs hp h
  rcases step_asleep_cases hs (hp.trans sleepPhase_eq.symm) h with rfl | ⟨i, c, hi, hc, rfl⟩
  · exact ⟨rfl, rfl, rfl, .inl ⟨hp, rfl, rfl, rfl⟩⟩
  · exact ⟨rfl, rfl, rfl, .inr ⟨dispatchPhase_eq, linesOff_of_replicate rfl, rfl,
      settle_resetEntry_wtCnt hi c s, hc⟩⟩

end Sys2Proof.Machine
end

section
/-! SUPPORT. The cold path (spec/42_controller.md R138, spec/70_reset_and_hazards.md R180): the steps
of an undisturbed run that end before the timer expires, and the three that lead from a cold DISPATCH
to SLEEP within the timing budget. -/

namespace Sys2Proof.Machine

/-! ### Undisturbed steps -/

/-- A run under way that the environment leaves alone. -/
structure Undisturbed (s : State) : Prop where
  legal : legal s.cfg = true
  started : s.started = true
  env : s.env = []

/-- Every step of an undisturbed run leaves it undisturbed. -/
theorem Undisturbed.next {s t : State} (hu : Undisturbed s) (h : step s = .next t) :
    Undisturbed t where
  legal := step_cfg h ▸ hu.legal
  started := step_started h
  env := by
    obtain ⟨-, u, -, rfl⟩ := step_next h
    rw [settle_env, hu.env, List.tail_nil]

theorem Undisturbed.no_reset {s : State} (hu : Undisturbed s) : arrivingReset s = none := by
  rw [arrivingReset, hu.env]

/-- A step that ends before the interval does is not cut short by the timer. -/
theorem timerExpires_of_lt {i : Instr} {s : State} (h : s.wtCnt + stepCost i s < interval s) :
    timerExpires i s = false := by
  unfold timerExpires
  split
  · rfl
  all_goals
    rw [decide_eq_false_iff_not]
    omega

/-- An undisturbed step within the interval is its instruction, and its cycles pass. -/
theorem Undisturbed.step_of_lt {s u : State} {i : Instr} (hu : Undisturbed s)
    (hd : decodePhase s.ph = i) (ht : s.wtCnt + stepCost i s < interval s)
    (he : exec i s = .next u) (hp : u.ph ≠ faultPhase) :
    step s = .next { u with
      env := s.env
      time := u.time + stepCost i s
      wtCnt := if writesCount i then u.wtCnt else u.wtCnt + stepCost i s } := by
  have hs : s.ph ≠ faultPhase := fun hf => by
    rw [← hd, hf, decodePhase_fault] at he
    cases he
  rw [step_of_select hu.legal
    (select_of_decode hu.started hs hu.no_reset hd (timerExpires_of_lt ht)) he,
    settle_running hp, hu.env, List.tail_nil]

/-! ### From a cold DISPATCH to SLEEP -/

/-- A cold DISPATCH just after its reset. -/
structure ColdStart (s : State) : Prop where
  undisturbed : Undisturbed s
  ph : s.ph = dispatchPhase
  cause : s.cause ≠ 1
  wtInt : s.wtInt = 0
  wtCnt : s.wtCnt = 0

theorem interval_default {s : State} (h : s.wtInt = 0) : interval s = s.cfg.defaultInterval :=
  if_pos h

/-- The state after the cold path's DISPATCH. -/
def coldDispatched (s : State) : State :=
  { s with
    ph := coldInitPhase
    wtCnt := s.cfg.cDispatch
    time := s.time + s.cfg.cDispatch }

/-- The state after the cold path's COLD_INIT. -/
def coldZeroed (s : State) : State :=
  { s with
    ret := Retained.zero
    ph := armTimerPhase 0
    wtCnt := s.cfg.cDispatch + s.cfg.cColdInit
    time := s.time + (s.cfg.cDispatch + s.cfg.cColdInit) }

/-- The state in which the cold path ends. -/
def coldAsleep (s : State) : State :=
  { s with
    ret := Retained.zero
    ph := sleepPhase
    wtInt := 1
    wtCnt := 0
    time := s.time + (s.cfg.cDispatch + s.cfg.cColdInit + s.cfg.cArm) }

section
variable {s : State} (hs : ColdStart s) (hb : TimingBudgetOk s.cfg)
include hs hb

theorem ColdStart.step_dispatch : step s = .next (coldDispatched s) := by
  obtain ⟨hbudget, -⟩ := hb
  have hlt : s.wtCnt + stepCost .dispatch s < interval s := by
    rw [interval_default hs.wtInt, hs.wtCnt]
    simp only [stepCost]
    omega
  rw [hs.undisturbed.step_of_lt (by rw [hs.ph, decodePhase_dispatch]) hlt
    (exec_dispatch_cold hs.cause) (show coldInitPhase ≠ faultPhase by decide)]
  simp [coldDispatched, setPhase, stepCost, writesCount, hs.wtCnt]

theorem ColdStart.step_coldInit : step (coldDispatched s) = .next (coldZeroed s) := by
  have hu := hs.undisturbed.next (hs.step_dispatch hb)
  obtain ⟨hbudget, -⟩ := hb
  have hlt : (coldDispatched s).wtCnt + stepCost .coldInit (coldDispatched s) <
      interval (coldDispatched s) := by
    rw [interval_default (show (coldDispatched s).wtInt = 0 from hs.wtInt)]
    simp only [coldDispatched, stepCost]
    omega
  rw [hu.step_of_lt decodePhase_coldInit hlt (exec_coldInit _)
    (show armTimerPhase 0 ≠ faultPhase by decide)]
  simp [coldDispatched, coldZeroed, setPhase, stepCost, writesCount, Nat.add_assoc]

theorem ColdStart.step_armTimer : step (coldZeroed s) = .next (coldAsleep s) := by
  have hu := (hs.undisturbed.next (hs.step_dispatch hb)).next (hs.step_coldInit hb)
  obtain ⟨hbudget, -⟩ := hb
  have hlt : (coldZeroed s).wtCnt + stepCost (.armTimer 0) (coldZeroed s) <
      interval (coldZeroed s) := by
    rw [interval_default (show (coldZeroed s).wtInt = 0 from hs.wtInt)]
    exact hbudget
  rw [hu.step_of_lt (decodePhase_armTimer 0) hlt (exec_armTimer_cold _)
    (show sleepPhase ≠ faultPhase by decide)]
  simp [coldZeroed, coldAsleep, setPhase, stepCost, writesCount, Nat.add_assoc]

end

theorem ColdStart.asleep_undisturbed {s : State} (hs : ColdStart s) :
    Undisturbed (coldAsleep s) :=
  ⟨hs.undisturbed.legal, hs.undisturbed.started, hs.undisturbed.env⟩

/-- Settles O55: the cold path's three steps, one after another. -/
theorem coldPathEndsAsleepAndZeroed : Obligations.ColdPathEndsAsleepAndZeroed := by
  intro s hl hb hs henv hph hcause hint hcnt
  have hcold : ColdStart s :=
    ⟨⟨hl, hs, henv⟩, hph.trans dispatchPhase_eq.symm, hcause, hint, hcnt⟩
  simp only [Host.Core.run, core, hcold.step_dispatch hb, hcold.step_coldInit hb,
    hcold.step_armTimer hb, coldAsleep, sleepPhase_eq]

end Sys2Proof.Machine
end

section
/-! SUPPORT. Where a run is observed (spec/42_controller.md R141): the steps that enter SLEEP, and
what a run shows from POWER_ON to its first wake (spec/70_reset_and_hazards.md R182). -/

namespace Sys2Proof.Machine

/-! ### Entering SLEEP -/

theorem scanCellPhase_ne_sleep (k : PhaseIndex) : scanCellPhase k ≠ sleepPhase := by
  obtain ⟨-, -, hsleep, -⟩ := scanCellPhase_ne k
  exact hsleep

theorem decodeTokenPhase_ne_sleep (slot : PhaseIndex) : decodeTokenPhase slot ≠ sleepPhase := by
  obtain ⟨-, -, hsleep, -⟩ := decodeTokenPhase_ne slot
  exact hsleep

theorem phaseAfterToken_eq_sleep {slot : PhaseIndex} (h : phaseAfterToken slot = sleepPhase) :
    slot = 0 := by
  rcases phaseAfterToken_cases slot with ⟨hz, -⟩ | ⟨-, e, -⟩
  · exact hz
  · exact absurd (e.symm.trans h) (decodeTokenPhase_ne_sleep _)

theorem phaseAfterCell_ne_sleep {k : PhaseIndex} (hk : k.toNat < 40) :
    phaseAfterCell k ≠ sleepPhase := by
  rcases phaseAfterCell_cases hk with ⟨-, e⟩ | ⟨-, e, -⟩ <;> rw [e]
  · decide
  · exact scanCellPhase_ne_sleep _

/-- Three instructions alone set PH to SLEEP. -/
theorem exec_enters_sleep {i : Instr} {s t : State} (h : exec i s = .next t)
    (hs : s.ph ≠ sleepPhase) (ht : t.ph = sleepPhase) :
    i = .armTimer 0 ∨ i = .scanEnd ∨ i = .decodeToken 0 := by
  cases i with
  | scanEnd => exact .inr (.inl rfl)
  | armTimer p =>
    by_cases hp : p = 0
    · exact .inl (congrArg _ hp)
    · cases h
      rw [setPhase_ph, if_neg hp] at ht
      exact absurd ht (scanCellPhase_ne_sleep 0)
  | decodeToken slot =>
    rcases execDecodeToken_next h with ⟨-, rfl⟩ | ⟨_, -, -, rfl⟩ | ⟨_, _, _, -, -, rfl⟩
    · cases ht
    · cases ht
    · exact .inr (.inr (congrArg _ (phaseAfterToken_eq_sleep ht)))
  | scanCell k =>
    rcases execScanCell_next h with ⟨-, rfl⟩ | ⟨_, hk, ⟨-, rfl⟩ | ⟨-, rfl⟩⟩
    · cases ht
    all_goals exact absurd ht (phaseAfterCell_ne_sleep (lt_of_cellOperand_some hk))
  | keep =>
    rcases execKeep_next h with ⟨_, rfl⟩ | ⟨_, _, -, rfl⟩
    · cases ht
    · exact absurd ht hs
  | set l =>
    rcases execSet_next h with ⟨_, rfl⟩ | ⟨_, _, _, -, rfl⟩
    · cases ht
    · exact absurd ht hs
  | dispatch => rcases execDispatch_next h with ⟨-, rfl⟩ | ⟨-, rfl⟩ <;> cases ht
  | timeout => rcases execTimeout_next h with ⟨-, rfl⟩ | ⟨-, rfl⟩ <;> cases ht
  | sleep => cases h; exact absurd ht hs
  | fault => cases h
  | coldInit | decodeBegin | illegal | powerOn | externalReset | otherReset => cases h; cases ht

/-- An observation point is the end of one of those three, at the phase that is its word. -/
theorem step_to_observationPoint {s t : State} (h : step s = .next t)
    (ho : observationPoint s t = true) :
    s.started = true ∧
      (s.ph = armTimerPhase 0 ∨ s.ph = scanEndPhase ∨ s.ph = decodeTokenPhase 0) := by
  obtain ⟨hs, ht⟩ := (observationPoint_iff s t).1 ho
  obtain ⟨-, u, hu, rfl⟩ := step_next h
  have hstarted : s.started = true := by
    by_contra hn
    rw [show select s = .powerOn from if_pos (Bool.eq_false_of_not_eq_true hn)] at hu
    cases hu
    cases ht
  refine ⟨hstarted, ?_⟩
  rcases exec_enters_sleep hu hs ht with e | e | e <;>
    have hcode := encode_of_select e nofun nofun nofun nofun
  · exact .inl (Code.phase.inj hcode).symm
  · exact .inr (.inl (Code.phase.inj hcode).symm)
  · exact .inr (.inr (Code.phase.inj hcode).symm)

/-! ### From POWER_ON to the first wake -/

/-- POWER_ON leaves a cold start with empty records (R131). -/
theorem step_runStarts {s : State} (h : runStarts s) (henv : s.env = []) :
    ∃ t, step s = .next t ∧ ColdStart t ∧ t.cfg = s.cfg ∧ t.trace = [] ∧ t.fault = none := by
  obtain ⟨hl, hs⟩ := h
  have hstep := step_of_select hl (if_pos hs : select s = .powerOn)
    (powerOnDrawsTheRetainedGroup s)
  rw [settle_running (show (0x040 : Phase) ≠ faultPhase by decide), henv] at hstep
  exact ⟨_, hstep, ⟨⟨hl, rfl, rfl⟩, dispatchPhase_eq.symm, by simp, rfl, rfl⟩, rfl, rfl, rfl⟩

/-- With the interval not yet elapsed, an undisturbed block sleeps on. -/
theorem Undisturbed.sleeps_on {s : State} (hu : Undisturbed s) (hp : s.ph = sleepPhase)
    (ht : s.wtCnt < interval s) : step s = .next (settle .sleep s s) := by
  have hd : decodePhase s.ph = .sleep := by rw [hp, decodePhase_sleep]
  have hrun : s.ph ≠ faultPhase := by
    rw [hp]
    decide
  have hexp : timerExpires .sleep s = false := decide_eq_false (Nat.not_le.2 ht)
  exact step_of_select hu.legal (select_of_decode hu.started hrun hu.no_reset hd hexp)
    (exec_sleep s)

theorem observationPoint_of_awake {s t : State} (h : t.ph ≠ sleepPhase) :
    observationPoint s t = false := by
  simp [observationPoint, h]

/-- A step of a sleeping block shows nothing of its own, whether it sleeps on or wakes. -/
theorem observeRun_succ_asleep {n : Nat} {s t : State} (hp : s.ph = sleepPhase)
    (h : step s = .next t) : observeRun (n + 1) s = observeRun n t :=
  observeRun_succ_of_not_point h (by simp [observationPoint, hp])

/-- A sleeping block whose interval has not elapsed shows nothing more up to its wake, two steps
later. -/
theorem observeRun_asleep {n : Nat} {s : State} (hn : n ≤ 2) (hu : Undisturbed s)
    (hp : s.ph = sleepPhase) (ht : s.wtCnt < interval s) :
    observeRun n s = { retained := [], trace := s.trace, fault := s.fault } := by
  have hwait := hu.sleeps_on hp ht
  have hp' : (settle .sleep s s).ph = sleepPhase := hp
  obtain ⟨t, hwake⟩ : ∃ t, step (settle .sleep s s) = .next t :=
    step_exists_next hu.legal fun _ => by
      rw [hp']
      decide
  obtain ⟨-, htrace, hfault, -⟩ :=
    sleepIsLeftOnlyByAReset (settle .sleep s s) t hu.started (hp'.trans sleepPhase_eq) hwake
  match n, hn with
  | 0, _ => rfl
  | 1, _ => rw [observeRun_succ_asleep hp hwait, observeRun_zero, settle_trace, settle_fault]
  | 2, _ =>
    rw [observeRun_succ_asleep hp hwait, observeRun_succ_asleep hp' hwake, observeRun_zero,
      htrace, hfault, settle_trace, settle_fault]

/-- The first two steps of the cold path show nothing. -/
theorem ColdStart.observeRun_zeroed {s : State} (hs : ColdStart s) (hb : TimingBudgetOk s.cfg)
    (n : Nat) : observeRun (n + 2) s = observeRun n (coldZeroed s) := by
  rw [observeRun_succ_of_not_point (hs.step_dispatch hb)
      (observationPoint_of_awake (show coldInitPhase ≠ sleepPhase by decide)),
    observeRun_succ_of_not_point (hs.step_coldInit hb)
      (observationPoint_of_awake (show armTimerPhase 0 ≠ sleepPhase by decide))]

/-- The third one shows the zeroed group, and up to the first wake nothing follows it. -/
theorem ColdStart.observeRun_first_wake {s : State} (hs : ColdStart s)
    (hb : TimingBudgetOk s.cfg) {n : Nat} (hn : n ≤ 2) :
    observeRun (n + 3) s =
      { retained := [Retained.zero], trace := s.trace, fault := s.fault } := by
  have hpoint : observationPoint (coldZeroed s) (coldAsleep s) = true :=
    (observationPoint_iff _ _).2 ⟨show armTimerPhase 0 ≠ sleepPhase by decide, rfl⟩
  have hlt : (coldAsleep s).wtCnt < interval (coldAsleep s) := by
    obtain ⟨-, -, hsteady, -⟩ := hb
    exact Nat.zero_lt_of_lt hsteady
  rw [hs.observeRun_zeroed hb (n + 1), observeRun_succ_of_point (hs.step_armTimer hb) hpoint,
    observeRun_asleep hn hs.asleep_undisturbed rfl hlt]
  rfl

/-- Settles O60: an unfaulted run selects another instruction than FAULT, three instructions alone
enter SLEEP, and the cold path that POWER_ON starts ends with one of them. -/
theorem runIsObservedWhereItEntersSleep : Obligations.RunIsObservedWhereItEntersSleep := by
  refine ⟨fun s hl h => step_exists_next hl (faultPhase_eq ▸ h), fun s t h ho => ?_,
    fun s h hb henv => ?_⟩
  · have henters := step_to_observationPoint h ho
    rwa [armTimerPhase_cold, scanEndPhase_eq, decodeTokenPhase_eq] at henters
  · obtain ⟨t, hon, hcold, hcfg, htrace, hfault⟩ := step_runStarts h henv
    rw [← hcfg] at hb
    have hawake : observationPoint s t = false := observationPoint_of_awake (by
      rw [hcold.ph]
      decide)
    refine ⟨?_, fun n h4 h6 => ?_⟩
    · rw [observeRun_succ_of_not_point hon hawake, hcold.observeRun_zeroed hb 0, observeRun_zero,
        ← htrace, ← hfault]
      rfl
    · obtain ⟨k, rfl⟩ := Nat.exists_eq_add_of_le' h4
      rw [observeRun_succ_of_not_point hon hawake, hcold.observeRun_first_wake hb (by omega),
        htrace, hfault]

end Sys2Proof.Machine
end

section
/-! SUPPORT. What each instruction does to the two clocks, WT_CNT and the model's own `time`, and
that none reads them: erasing them commutes with every instruction (spec/60_exceptions.md R160,
R161, log 12). -/

namespace Sys2Proof.Machine

/-! ### What is written -/

/-- No instruction but POWER_ON writes the model's clock: the boundary's bookkeeping does. -/
theorem exec_time {i : Instr} {s t : State} (h : exec i s = .next t) (hi : i ≠ .powerOn) :
    t.time = s.time := by
  cases i with
  | keep => rcases execKeep_next h with ⟨_, rfl⟩ | ⟨_, _, -, rfl⟩ <;> rfl
  | set l => rcases execSet_next h with ⟨_, rfl⟩ | ⟨_, _, _, -, rfl⟩ <;> rfl
  | dispatch => rcases execDispatch_next h with ⟨-, rfl⟩ | ⟨-, rfl⟩ <;> rfl
  | scanCell k =>
    rcases execScanCell_next h with ⟨-, rfl⟩ | ⟨_, -, ⟨-, rfl⟩ | ⟨-, rfl⟩⟩ <;> rfl
  | scanEnd => rcases execScanEnd_next h with ⟨-, rfl⟩ | ⟨-, rfl⟩ <;> rfl
  | decodeToken slot =>
    rcases execDecodeToken_next h with ⟨-, rfl⟩ | ⟨_, -, -, rfl⟩ | ⟨_, _, _, -, -, rfl⟩ <;> rfl
  | timeout => rcases execTimeout_next h with ⟨-, rfl⟩ | ⟨-, rfl⟩ <;> rfl
  | powerOn => exact absurd rfl hi
  | fault => cases h
  | coldInit | armTimer | decodeBegin | sleep | illegal | externalReset | otherReset =>
    cases h; rfl

/-- An instruction that does not restart the wake timer leaves it alone. -/
theorem exec_timer_of_not_writesCount {i : Instr} {s t : State} (h : exec i s = .next t)
    (hi : writesCount i = false) : t.wtInt = s.wtInt ∧ t.wtCnt = s.wtCnt := by
  obtain ⟨-, -, -, -, -, -, htimer, -⟩ := registersAreWrittenOnlyByTheirColumn i s t h
  by_contra hne
  rcases htimer (not_and_or.1 hne) with ⟨p, rfl⟩ | rfl | rfl | rfl | rfl <;> cases hi

/-! ### What is read -/

theorem exec_scanCell_of_dark {k : PhaseIndex} {pos : Fin 40} {s : State}
    (hk : cellOperand k = some pos) (hd : readCell s.ret s.cfg.scanOrder[pos] = 0) :
    exec (.scanCell k) s = .next (setPhase (phaseAfterCell k) s) := by
  simp only [exec, execScanCell, hk, if_pos hd]

theorem exec_scanCell_of_lit {k : PhaseIndex} {pos : Fin 40} {s : State}
    (hk : cellOperand k = some pos) (hd : readCell s.ret s.cfg.scanOrder[pos] ≠ 0) :
    exec (.scanCell k) s = .next (setPhase (phaseAfterCell k)
      (drivePulse pos s.cfg.scanOrder[pos] (readCell s.ret s.cfg.scanOrder[pos]) s)) := by
  simp only [exec, execScanCell, hk, if_neg hd]

theorem drivePulse_eraseTime (k i : Fin 40) (d : Byte) (s : State) :
    drivePulse k i d (eraseTime s) = eraseTime (drivePulse k i d s) := rfl

/-- No instruction reads the clocks, so each does without them what it does with them. -/
theorem exec_eraseTime {i : Instr} {s t : State} (h : exec i s = .next t) :
    exec i (eraseTime s) = .next (eraseTime t) := by
  have hcur : currentSlot (eraseTime s) = currentSlot s := rfl
  cases i with
  | keep =>
    dsimp only [exec, execKeep] at h ⊢
    split at h
    case h_1 hslot => cases h; simp only [hcur, hslot]; rfl
    case h_2 slot hslot =>
      split at h
      all_goals
        rename_i hbit
        cases h
        simp only [hcur, hslot, eraseTime_cfg, eraseTime_ret, hbit]
        rfl
  | set l =>
    dsimp only [exec, execSet] at h ⊢
    split at h
    case h_1 hslot => cases h; simp only [hcur, hslot]; rfl
    case h_2 slot hslot =>
      split at h
      all_goals
        rename_i hbits
        cases h
        simp only [hcur, hslot, eraseTime_cfg, eraseTime_ret, hbits]
        rfl
  | dispatch =>
    rcases execDispatch_next h with ⟨hc, rfl⟩ | ⟨hc, rfl⟩
    · exact exec_dispatch_warm (s := eraseTime s) hc
    · exact exec_dispatch_cold (s := eraseTime s) hc
  | scanCell k =>
    rcases execScanCell_next h with ⟨hk, rfl⟩ | ⟨pos, hk, ⟨hd, rfl⟩ | ⟨hd, rfl⟩⟩
    · simp only [exec, execScanCell, hk]; rfl
    · exact exec_scanCell_of_dark (s := eraseTime s) hk hd
    · exact (exec_scanCell_of_lit (s := eraseTime s) hk hd).trans
        (by rw [drivePulse_eraseTime]; rfl)
  | scanEnd =>
    rcases execScanEnd_next h with ⟨hdue, rfl⟩ | ⟨hdue, rfl⟩
    · exact if_pos (show decodeDue (eraseTime s) = true from hdue)
    · exact if_neg (show ¬ decodeDue (eraseTime s) = true from ne_true_of_eq_false hdue)
  | decodeToken slot =>
    rcases execDecodeToken_next h with ⟨hs, rfl⟩ | ⟨_, hs, hf, rfl⟩ | ⟨_, _, _, hs, hf, rfl⟩
    · simp only [exec, execDecodeToken, hs]; rfl
    all_goals simp only [exec, execDecodeToken, hs, eraseTime_ret, eraseTime_cfg, hf]; rfl
  | timeout =>
    rcases execTimeout_next h with ⟨hp, rfl⟩ | ⟨hp, rfl⟩
    · exact exec_timeout_asleep (s := eraseTime s) hp
    · exact exec_timeout_awake (s := eraseTime s) hp
  | fault => cases h
  | coldInit | armTimer | decodeBegin | sleep | illegal | powerOn | externalReset | otherReset =>
    cases h; rfl

end Sys2Proof.Machine
end

section
/-! SUPPORT. What comes before the timer and every step: the stuck state, a refused configuration
and the events, in their order of priority (spec/60_exceptions.md R151, R152, R155). -/

namespace Sys2Proof.Machine

/-! ### Stops and refusals -/

/-- Settles O34: FAULT is all that a faulted state selects, and it has no next state. -/
theorem faultedStateIsStuck : Obligations.FaultedStateIsStuck :=
  fun _ => ⟨rfl, fun hl hs hp => step_of_faulted hl hs (hp.trans faultPhase_eq.symm)⟩

/-- No instruction is refused: FAULT stops, and every other one has a next state. -/
theorem exec_ne_refused (i : Instr) (s : State) (r : Refusal) : exec i s ≠ .refused r := by
  by_cases hi : i = .fault
  · rw [hi]
    nofun
  · obtain ⟨t, ht⟩ := exec_exists_next s hi
    rw [ht]
    nofun

/-- Settles O43: the step refuses an illegal configuration itself, and no instruction refuses. -/
theorem onlyIllegalConfigurationsAreRefused : Obligations.OnlyIllegalConfigurationsAreRefused := by
  refine fun s => ⟨fun hl => if_neg (ne_true_of_eq_false hl), fun hl r h => ?_⟩
  rw [step, if_pos hl] at h
  split at h
  · cases h
  · cases h
  · exact exec_ne_refused _ _ _ ‹_›

/-! ### Events -/

/-- A reset that arrives is selected before the timer and the step of PH. -/
theorem select_of_arriving {s : State} {i : Instr} (hs : s.started = true)
    (hp : s.ph ≠ faultPhase) (ha : arrivingReset s = some i) : select s = i := by
  simp [select, hs, hp, ha]

/-- A step whose event ends in the reset entry leaves the block at DISPATCH with the event's cause;
the retained group is what the event leaves, and the boundary's input is used up. -/
theorem step_of_reset {s u : State} {i : Instr} {c : EventCode} (hl : legal s.cfg = true)
    (hi : select s = i) (hu : exec i s = .next (resetEntry c u)) :
    ∃ t, step s = .next t ∧ t.ph = 0x040 ∧ t.cause = c ∧ t.ret = u.ret ∧ t.env = s.env.tail :=
  ⟨_, step_of_select hl hi hu, dispatchPhase_eq, rfl, rfl, rfl⟩

/-- Settles O38: `select` asks for the events in this order, and each is a reset entry. -/
theorem resetEventsTakePriority : Obligations.ResetEventsTakePriority := by
  intro s e rest hl henv
  have htail : s.env.tail = rest := by rw [henv, List.tail_cons]
  rw [← faultPhase_eq, ← htail]
  refine ⟨fun hs => ?_, fun hs hp hext => ?_, fun hs hp hext hoth => ?_⟩
  · obtain ⟨t, hstep, hph, hcause, -, henv'⟩ := step_of_reset hl (if_pos hs) rfl
    exact ⟨t, hstep, hph, hcause, henv'⟩
  · have ha : arrivingReset s = some .externalReset := by simp [arrivingReset, henv, hext]
    exact step_of_reset hl (select_of_arriving hs hp ha) (exec_externalReset s)
  · have ha : arrivingReset s = some .otherReset := by simp [arrivingReset, henv, hext, hoth]
    exact step_of_reset hl (select_of_arriving hs hp ha) (exec_otherReset s)

end Sys2Proof.Machine
end

section
/-! SUPPORT. The wake timer at a step: where it expires, what a step that ends before it charges to
the two clocks, and the wait in SLEEP (spec/60_exceptions.md R156, R160,
spec/70_reset_and_hazards.md R191, R192). -/

namespace Sys2Proof.Machine

/-! ### Where the timer expires -/

/-- Outside SLEEP and the reserved phases, the timer expires within a step that reaches the
interval. -/
theorem timerExpires_iff {i : Instr} {s : State} (hsleep : i ≠ .sleep)
    (hill : ∀ ph, i ≠ .illegal ph) :
    timerExpires i s = true ↔ interval s ≤ s.wtCnt + stepCost i s := by
  cases i with
  | sleep => exact absurd rfl hsleep
  | illegal ph => exact absurd rfl (hill ph)
  | _ => exact decide_eq_true_iff

theorem timerExpires_sleep_iff (s : State) :
    timerExpires .sleep s = true ↔ interval s ≤ s.wtCnt := decide_eq_true_iff

/-- SLEEP is decoded from its own phase alone. -/
theorem eq_sleepPhase_of_decode {ph : Phase} (h : decodePhase ph = .sleep) : ph = sleepPhase := by
  have hcode := encode_decodePhase ph
  rw [h] at hcode
  exact (Code.phase.inj hcode).symm

/-- A value of PH that R77 defines is not decoded to ILLEGAL. -/
theorem decodePhase_ne_illegal {ph : Phase} (h : phaseDefined ph = true) (p : Phase) :
    decodePhase ph ≠ .illegal p := by
  intro e
  have hwf := decodePhase_wf ph
  have hcode := encode_decodePhase ph
  rw [e] at hwf hcode
  obtain rfl := Code.phase.inj hcode
  simp [Instr.wf, h] at hwf

/-- Where the timer expires with no reset arriving, TIMEOUT is selected. -/
theorem select_of_expiry {s : State} (hs : s.started = true) (hp : s.ph ≠ faultPhase)
    (ha : arrivingReset s = none) (ht : timerExpires (decodePhase s.ph) s = true) :
    select s = .timeout := by
  simp [select, hs, hp, ha, ht]

/-- An expiry outside SLEEP discards the step and records WAKE_OVERRUN; no cycles pass. -/
theorem step_of_expiry {s : State} (hl : legal s.cfg = true) (hs : s.started = true)
    (hp : s.ph ≠ faultPhase) (hsleep : s.ph ≠ sleepPhase) (ha : arrivingReset s = none)
    (ht : timerExpires (decodePhase s.ph) s = true) :
    step s = .next { raiseFault .wakeOverrun s with env := s.env.tail } := by
  rw [step_of_select hl (select_of_expiry hs hp ha ht) (exec_timeout_awake hsleep),
    settle_faulted (raiseFault_ph _ _)]

/-! ### The cycles of a step -/

/-- The instruction of a phase restarts the timer at ARM_TIMER's two phases alone. -/
theorem writesCount_decodePhase_iff (ph : Phase) :
    writesCount (decodePhase ph) = true ↔ ph = 0x0C0 ∨ ph = 0x0C1 := by
  rw [← armTimerPhase_cold, ← armTimerPhase_warm]
  constructor
  · have hcode := encode_decodePhase ph
    cases hi : decodePhase ph with
    | armTimer p =>
      rw [hi] at hcode
      obtain rfl : armTimerPhase p = ph := Code.phase.inj hcode
      obtain rfl | rfl : p = 0 ∨ p = 1 := by
        revert p
        decide
      · exact fun _ => .inl rfl
      · exact fun _ => .inr rfl
    | powerOn | timeout | externalReset | otherReset => rw [hi] at hcode; cases hcode
    | _ => nofun
  · rintro (rfl | rfl) <;> rw [decodePhase_armTimer] <;> rfl

/-- What a step of the sequencer leaves in WT_CNT before its cycles pass (R160). -/
theorem exec_decodePhase_wtCnt {s u : State} (h : exec (decodePhase s.ph) s = .next u) :
    u.wtCnt = if writesCount (decodePhase s.ph) then 0 else s.wtCnt := by
  have hcode := encode_decodePhase s.ph
  cases hw : writesCount (decodePhase s.ph) with
  | false => exact (exec_timer_of_not_writesCount h hw).2
  | true =>
    generalize decodePhase s.ph = i at h hcode hw
    cases i with
    | armTimer p => cases h; rfl
    | powerOn | timeout | externalReset | otherReset => cases hcode
    | _ => cases hw

/-- Settles O39: the timer's check is the comparison of R160, and the cycles are the boundary's. -/
theorem timerExpiryWithinAStepFaults : Obligations.TimerExpiryWithinAStepFaults := by
  intro s hl hs ha hdef hfault hsleep
  have hne : decodePhase s.ph ≠ .sleep := fun e =>
    hsleep ((eq_sleepPhase_of_decode e).trans sleepPhase_eq)
  refine ⟨fun hle => ?_, fun hlt => ?_⟩
  · rw [step_of_expiry hl hs (faultPhase_eq ▸ hfault) (sleepPhase_eq ▸ hsleep) ha
      ((timerExpires_iff hne (decodePhase_ne_illegal hdef)).2 hle), raiseFault_eq]
  · obtain ⟨u, hu, hstep⟩ :=
      stepRunsTheDecodedInstruction s _ hl hs hfault ha rfl (timerExpires_of_lt hlt)
    refine ⟨u, _, hu, hstep, rfl, rfl, rfl, rfl, rfl, fun hp => ?_⟩
    rw [settle_running (faultPhase_eq ▸ hp)]
    refine ⟨congrArg (· + _) (exec_time hu (decodePhase_ne_powerOn _)), ?_⟩
    have hcnt := exec_decodePhase_wtCnt hu
    simp only [← writesCount_decodePhase_iff]
    split <;> rename_i hw
    · rw [hcnt, if_pos hw]
    · rw [hcnt, if_neg hw]

/-- The boundary charges the same cycles to both clocks, where the instruction leaves them alone. -/
theorem settle_clocks {i : Instr} {s u : State} (hw : writesCount i = false)
    (htime : u.time = s.time) (hcnt : u.wtCnt = s.wtCnt) :
    (settle i s u).time + s.wtCnt = s.time + (settle i s u).wtCnt := by
  by_cases hp : u.ph = faultPhase
  · rw [settle_faulted hp]
    simp only [htime, hcnt]
  · rw [settle_running hp]
    simp only [hw, htime, hcnt, Bool.false_eq_true, if_false]
    omega

/-! ### The wait in SLEEP -/

theorem waitCycles_le (s : State) : waitCycles s ≤ interval s - s.wtCnt := by
  unfold waitCycles
  split
  · exact le_refl _
  · exact Nat.min_le_left _ _

/-- In SLEEP every event restarts the timer, so a step that does not is the wait. -/
theorem select_asleep {s : State} (hp : s.ph = sleepPhase) (hw : writesCount (select s) = false) :
    select s = .sleep := by
  rcases select_event_or_decodePhase s with e | e | e | e | e
  case inr.inr.inr.inr => rw [e, hp, decodePhase_sleep]
  all_goals
    rw [e] at hw
    cases hw

/-- What the wait makes of a sleeping state: its cycles pass. -/
theorem settle_sleep {s : State} (hp : s.ph = sleepPhase) :
    settle .sleep s s = { s with
      env := s.env.tail
      time := s.time + waitCycles s
      wtCnt := s.wtCnt + waitCycles s } :=
  settle_running (by rw [hp]; decide)

/-- Settles O54: a step that does not restart the timer leaves both clocks to the boundary, and the
wait is at most what is left of the interval. -/
theorem clockAndTimerAdvanceTogether : Obligations.ClockAndTimerAdvanceTogether := by
  intro s t h hw
  obtain ⟨-, u, hu, rfl⟩ := step_next h
  have hne : select s ≠ .powerOn := fun e => by rw [e] at hw; cases hw
  obtain ⟨hint, hcnt⟩ := exec_timer_of_not_writesCount hu hw
  refine ⟨settle_clocks hw (exec_time hu hne) hcnt, fun hp hle => ?_⟩
  rw [← sleepPhase_eq] at hp
  have hsleep := select_asleep hp hw
  rw [hsleep] at hu ⊢
  cases hu
  have hwait := waitCycles_le s
  rw [settle_sleep hp]
  show s.wtCnt + waitCycles s ≤ interval s
  omega

/-- The cycles of an event that resets a running block are charged to the model's clock alone
(log 12). -/
theorem settle_resetEntry {i : Instr} (h : writesCount i = true) (c : EventCode) (s : State) :
    settle i s (resetEntry c s) = { resetEntry c s with
      env := s.env.tail
      time := s.time + stepCost i s } := by
  rw [settle_running (show dispatchPhase ≠ faultPhase by decide), if_pos h]
  rfl

/-- Where the interval has elapsed, an undisturbed sleeping block takes TIMEOUT. -/
theorem Undisturbed.wakes {s : State} (hu : Undisturbed s) (hp : s.ph = sleepPhase)
    (ht : interval s ≤ s.wtCnt) : step s = .next (settle .timeout s (resetEntry 1 s)) := by
  have hrun : s.ph ≠ faultPhase := by
    rw [hp]
    decide
  have hexp : timerExpires (decodePhase s.ph) s = true := by
    rw [hp, decodePhase_sleep]
    exact (timerExpires_sleep_iff s).2 ht
  exact step_of_select hu.legal (select_of_expiry hu.started hrun hu.no_reset hexp)
    (exec_timeout_asleep hp)

/-- Settles O40: one step waits out the interval, and the next is TIMEOUT. -/
theorem sleepWaitsOutTheInterval : Obligations.SleepWaitsOutTheInterval := by
  intro s hl hs henv hph hlt
  have hp : s.ph = sleepPhase := hph.trans sleepPhase_eq.symm
  have hu : Undisturbed s := ⟨hl, hs, henv⟩
  have hwait := hu.sleeps_on hp hlt
  have hcycles : waitCycles s = interval s - s.wtCnt := by rw [waitCycles, henv]
  have hwake := (hu.next hwait).wakes hp (by
    rw [settle_sleep hp]
    show interval s ≤ s.wtCnt + waitCycles s
    omega)
  rw [settle_resetEntry (i := .timeout) rfl] at hwake
  simp only [Host.Core.run, core, hwait, hwake]
  rw [settle_sleep hp, resetEntry_eq, hcycles, henv]
  rfl

end Sys2Proof.Machine
end

section
/-! SUPPORT. The timing budget (spec/70_reset_and_hazards.md R185): the longest each step takes, and
that within the budget the timer expires in SLEEP alone, so that a timed step is a step of the
untimed model (spec/60_exceptions.md R161). -/

namespace Sys2Proof.Machine

/-! ### The longest a cell takes -/

/-- No pulse is longer than one of full duty. -/
theorem onTime_le_full {c : Config} (h : legal c = true) {d : Byte} (hd : d ≠ 0) :
    onTime c d ≤ onTime c 255 := by
  obtain ⟨-, -, -, htiming, -⟩ := (legal_iff c).1 h
  have hfull : (255 : Byte).toNat = 255 := rfl
  rcases Nat.lt_or_ge d.toNat 2 with h1 | h2
  · obtain rfl : d = 1 := by bv_omega
    rw [onTime_one]
    exact pulseMin_le_onTime htiming (by decide)
  · rcases (Nat.le_of_lt_succ d.isLt : d.toNat ≤ 255).eq_or_lt with he | hlt
    · rw [show d = 255 from BitVec.eq_of_toNat_eq he]
    · exact (onTime_lt_of_lt htiming h2 (hfull ▸ hlt)).le

theorem scanCellCost_le {s : State} (hl : legal s.cfg = true) (hb : TimingBudgetOk s.cfg)
    (k : PhaseIndex) : scanCellCost k s ≤ cellTime s.cfg := by
  obtain ⟨-, -, -, hskip, -⟩ := hb
  unfold scanCellCost
  split
  · exact Nat.zero_le _
  · dsimp only
    split
    · exact hskip
    · exact Nat.add_le_add_left (onTime_le_full hl ‹_›) _

/-! ### The longest a token takes -/

/-- A bit that is consumed is no longer in WB, so at most 7 are left of a byte. -/
theorem nextBit_nb_le {c : Config} {r r' : Retained} {b : Bool} (hnb : r.nb.toNat ≤ 8)
    (h : nextBit c r = some (b, r')) : r'.nb.toNat ≤ 7 := by
  rcases nextBit_cases c r with ⟨-, -, e⟩ | ⟨-, -, e⟩ | ⟨hne, e⟩ <;> rw [e] at h <;> cases h
  · exact le_refl _
  · show (r.nb - 1).toNat ≤ 7
    bv_omega

/-- P = 8·CUR − NB grows by n over n bits, and NB stays at most 7. -/
theorem nextBits_position {c : Config} {n v w : Nat} {r r' : Retained} (hnb : r.nb.toNat ≤ 7)
    (h : nextBits c n v r = some (w, r')) :
    8 * r'.cur.toNat + r.nb.toNat = 8 * r.cur.toNat + r'.nb.toNat + n ∧ r'.nb.toNat ≤ 7 := by
  induction n generalizing v r with
  | zero => cases h; exact ⟨rfl, hnb⟩
  | succ n ih =>
    obtain ⟨b, r1, hbit, hrest⟩ := nextBits_succ_some h
    have hpos1 := nextBit_position hbit
    obtain ⟨hpos, hle⟩ := ih (nextBit_nb_le (by omega) hbit) hrest
    exact ⟨by omega, hle⟩

/-- A token is at most six bits, of which NB were in WB already. -/
theorem fetchToken_position {c : Config} {r r' : Retained} {t : Token} (hnb : r.nb.toNat ≤ 8)
    (h : fetchToken c r = some (t, r')) :
    8 * r'.cur.toNat + r.nb.toNat ≤ 8 * r.cur.toNat + r'.nb.toNat + 6 ∧ r'.nb.toNat ≤ 7 := by
  rcases fetchToken_cases h with ⟨-, hbit⟩ | ⟨v, r1, -, hbit, hbits⟩ <;>
    have hpos := nextBit_position hbit <;> have hle := nextBit_nb_le hnb hbit
  · exact ⟨by omega, hle⟩
  · obtain ⟨hpos', hle'⟩ := nextBits_position hle hbits
    exact ⟨by omega, hle'⟩

/-- A DECODE_TOKEN step takes at most a SET token and the refills its six bits need beyond NB. -/
theorem decodeTokenCost_le {s : State} (hb : TimingBudgetOk s.cfg)
    (ho : OverrunWithinBudget s.cfg) (hnb : s.ret.nb.toNat ≤ 8) :
    ∃ refills, 8 * refills + s.ret.nb.toNat ≤ 13 ∧
      decodeTokenCost s ≤ s.cfg.cTokenSet + refills * s.cfg.cRefill := by
  obtain ⟨-, -, -, -, hkeep, -⟩ := hb
  unfold decodeTokenCost
  split
  · exact ⟨0, by omega, (ho ⟨min s.ret.nb.toNat 5, by omega⟩).trans (Nat.le_add_right _ _)⟩
  · rename_i t r hfetch
    obtain ⟨hpos, hle⟩ := fetchToken_position hnb hfetch
    refine ⟨r.cur.toNat - s.ret.cur.toNat, by omega, Nat.add_le_add_right ?_ _⟩
    cases t with
    | keep => exact hkeep
    | set l => exact le_refl _

/-! ### The timer within the budget -/

theorem interval_steady {s : State} (h : s.wtInt = 1) : interval s = s.cfg.steadyInterval := by
  rw [interval, h]
  exact if_neg (by decide)

/-- The decode of a whole frame fits beside the scan: 30 refills are enough, since 40 tokens have at
most 240 bits and at most 7 more are left in WB. -/
theorem decodeToken_within_budget {s : State} {slot : PhaseIndex} (hb : TimingBudgetOk s.cfg)
    (ho : OverrunWithinBudget s.cfg) (hnb : s.ret.nb.toNat ≤ 8) {refills : Nat}
    (hr : 8 * refills ≤ 6 * (39 - slot.toNat) + s.ret.nb.toNat)
    (hcnt : s.wtCnt ≤ 40 * cellTime s.cfg + s.cfg.cScanEnd + s.cfg.cDecodeBeginReset +
      (39 - slot.toNat) * s.cfg.cTokenSet + refills * s.cfg.cRefill) :
    s.wtCnt + decodeTokenCost s < s.cfg.steadyInterval := by
  obtain ⟨more, hmore, hcost⟩ := decodeTokenCost_le hb ho hnb
  obtain ⟨-, -, hsteady, -⟩ := hb
  have htokens : (39 - slot.toNat + 1) * s.cfg.cTokenSet ≤ 40 * s.cfg.cTokenSet :=
    Nat.mul_le_mul_right _ (by omega)
  have hrefills : (refills + more) * s.cfg.cRefill ≤ 30 * s.cfg.cRefill :=
    Nat.mul_le_mul_right _ (by omega)
  rw [Nat.add_mul] at htokens hrefills
  omega

theorem RunInv.phase_defined {s : State} (h : RunInv s) : phaseDefined s.ph = true := by
  obtain ⟨hdef, -⟩ := h
  exact hdef

/-- Within the budget, every step outside SLEEP ends before the timer expires. -/
theorem BudgetInv.step_in_time {s : State} {i : Instr} (hl : legal s.cfg = true)
    (hb : TimingBudgetOk s.cfg) (ho : OverrunWithinBudget s.cfg) (hi : RunInv s)
    (h : BudgetInv s) (hd : decodePhase s.ph = i) (hsleep : i ≠ .sleep) (hfault : i ≠ .fault)
    (hill : ∀ ph, i ≠ .illegal ph) : s.wtCnt + stepCost i s < interval s := by
  have hcode := encode_decodePhase s.ph
  unfold BudgetInv at h
  rw [hd] at h hcode
  have hclauses := hb
  obtain ⟨hcold, hwarm, hsteady, -, -, hbegin⟩ := hclauses
  cases i with
  | keep | set | powerOn | timeout | externalReset | otherReset => cases hcode
  | sleep => exact absurd rfl hsleep
  | fault => exact absurd rfl hfault
  | illegal ph => exact absurd rfl (hill ph)
  | dispatch =>
    obtain ⟨hint, hcnt⟩ := h
    rw [interval_default hint, hcnt]
    simp only [stepCost]
    omega
  | coldInit =>
    obtain ⟨hint, hcnt⟩ := h
    rw [interval_default hint]
    simp only [stepCost]
    omega
  | armTimer p =>
    obtain ⟨hint, hcnt⟩ := h
    rw [interval_default hint]
    simp only [stepCost]
    split at hcnt <;> omega
  | scanCell k =>
    obtain ⟨hint, hcnt⟩ := h
    have hk : k.toNat < 40 := by
      have hwf := decodePhase_wf s.ph
      rw [hd] at hwf
      exact of_decide_eq_true hwf
    have hcost := scanCellCost_le hl hb k
    have hcells : (k.toNat + 1) * cellTime s.cfg ≤ 40 * cellTime s.cfg :=
      Nat.mul_le_mul_right _ hk
    rw [Nat.add_mul] at hcells
    rw [interval_steady hint]
    simp only [stepCost]
    omega
  | scanEnd =>
    obtain ⟨hint, hcnt⟩ := h
    rw [interval_steady hint]
    simp only [stepCost]
    omega
  | decodeBegin =>
    obtain ⟨hint, hcnt⟩ := h
    rw [interval_steady hint]
    simp only [stepCost]
    split <;> omega
  | decodeToken slot =>
    obtain ⟨hint, refills, hr, hcnt⟩ := h
    obtain ⟨hdisp, hinit, -, hflt⟩ := decodeTokenPhase_ne slot
    obtain ⟨-, -, hnb, -⟩ := hi.inRange_of_ne (Code.phase.inj hcode) hdisp hinit hflt
    rw [interval_steady hint]
    exact decodeToken_within_budget hb ho hnb hr hcnt

/-- Within the budget the timer expires in SLEEP alone. -/
theorem BudgetInv.sleep_of_expiry {s : State} (hl : legal s.cfg = true)
    (hb : TimingBudgetOk s.cfg) (ho : OverrunWithinBudget s.cfg) (hi : RunInv s)
    (h : BudgetInv s) (hp : s.ph ≠ faultPhase)
    (ht : timerExpires (decodePhase s.ph) s = true) : decodePhase s.ph = .sleep := by
  by_contra hsleep
  have hill := decodePhase_ne_illegal hi.phase_defined
  have hlt := h.step_in_time hl hb ho hi rfl hsleep (decodePhase_ne_fault hp) hill
  have hle := (timerExpires_iff hsleep hill).1 ht
  omega

/-! ### The untimed model -/

/-- The untimed model selects what the timed one does, unless that sleeps on. -/
theorem BudgetInv.untimedSelect_eraseTime {s : State} (hl : legal s.cfg = true)
    (hb : TimingBudgetOk s.cfg) (ho : OverrunWithinBudget s.cfg) (hi : RunInv s)
    (h : BudgetInv s) : untimedSelect (eraseTime s) = select s ∨ select s = .sleep := by
  have ha' : arrivingReset (eraseTime s) = arrivingReset s := rfl
  rcases select_cases s with ⟨hs, e⟩ | ⟨hs, hp, e⟩ | ⟨hs, hp, i, ha, e⟩ | ⟨hs, hp, ha, ht, e⟩ |
    ⟨hs, hp, ha, -, e⟩
  · exact .inl (by simp [untimedSelect, hs, e])
  · exact .inl (by simp [untimedSelect, hs, hp, e])
  · exact .inl (by simp [untimedSelect, hs, hp, ha', ha, e])
  · have hsleep := h.sleep_of_expiry hl hb ho hi hp ht
    exact .inl (by simp [untimedSelect, hs, hp, ha', ha, hsleep, e])
  · by_cases hsleep : decodePhase s.ph = .sleep
    · exact .inr (e.trans hsleep)
    · exact .inl (by simp [untimedSelect, hs, hp, ha', ha, hsleep, e])

/-- Without the clocks the boundary's bookkeeping is the input it uses up. -/
theorem eraseTime_settle (i : Instr) (s u : State) :
    eraseTime (settle i s u) = eraseTime { u with env := s.env.tail } := rfl

/-- An untimed step of a legal configuration is its selected instruction. -/
theorem untimedStep_of_select {s u : State} {i : Instr} (hl : legal s.cfg = true)
    (hi : untimedSelect s = i) (hu : exec i s = .next u) :
    untimedStep s = .next (eraseTime { u with env := s.env.tail }) := by
  subst hi
  simp [untimedStep, hl, hu]

/-- Settles O53: within the budget both models select the same instruction or the block sleeps on,
and no instruction reads the clocks that the untimed model does not have. -/
theorem timedStepRefinesUntimedStep : Obligations.TimedStepRefinesUntimedStep := by
  intro s t hl hb ho hi hbudget h
  obtain ⟨-, u, hu, rfl⟩ := step_next h
  rw [eraseTime_settle]
  rcases hbudget.untimedSelect_eraseTime hl hb ho hi with e | hsleep
  · exact .inl (untimedStep_of_select (u := eraseTime u) hl e (exec_eraseTime hu))
  · have hcode := encode_of_select hsleep nofun nofun nofun nofun
    rw [hsleep] at hu
    cases hu
    exact .inr ⟨(Code.phase.inj hcode).symm.trans sleepPhase_eq, rfl⟩

end Sys2Proof.Machine
end

section
/-! SUPPORT. What each step and event costs (spec/70_reset_and_hazards.md R191, R112): how far a
token moves the reader and so how many refills it needs, the hold of a pulse, and the loop reset. -/

namespace Sys2Proof.Machine

/-! ### The refills of a token -/

/-- P = 8·CUR − NB grows by a token's length, and NB ends at most 7. -/
theorem fetchToken_moves {c : Config} {r r' : Retained} {t : Token} (hnb : r.nb.toNat ≤ 8)
    (h : fetchToken c r = some (t, r')) :
    8 * r'.cur.toNat + r.nb.toNat = 8 * r.cur.toNat + r'.nb.toNat + (tokenBits t).length ∧
      r'.nb.toNat ≤ 7 := by
  rcases fetchToken_cases h with ⟨rfl, hbit⟩ | ⟨v, r1, rfl, hbit, hbits⟩ <;>
    have hpos := nextBit_position hbit <;> have hle := nextBit_nb_le hnb hbit
  · exact ⟨hpos, hle⟩
  · obtain ⟨hpos', hle'⟩ := nextBits_position hle hbits
    refine ⟨?_, hle'⟩
    show _ = _ + 6
    omega

theorem tokenBits_length_bounds (t : Token) :
    1 ≤ (tokenBits t).length ∧ (tokenBits t).length ≤ 6 := by
  cases t <;> simp [tokenBits]

/-- A bit that WB holds is read without a refill. -/
theorem nextBit_of_held {c : Config} {r r' : Retained} {b : Bool} (hnb : 1 ≤ r.nb.toNat)
    (h : nextBit c r = some (b, r')) : r'.cur = r.cur ∧ r'.nb.toNat + 1 = r.nb.toNat := by
  rcases nextBit_cases c r with ⟨hz, -, -⟩ | ⟨hz, -, -⟩ | ⟨-, e⟩
  · simp [hz] at hnb
  · simp [hz] at hnb
  · rw [e] at h
    cases h
    refine ⟨rfl, ?_⟩
    show (r.nb - 1).toNat + 1 = r.nb.toNat
    bv_omega

/-- Bits that WB holds are read without a refill. -/
theorem nextBits_of_held {c : Config} {n v w : Nat} {r r' : Retained} (hnb : n ≤ r.nb.toNat)
    (h : nextBits c n v r = some (w, r')) : r'.cur = r.cur := by
  induction n generalizing v r with
  | zero => cases h; rfl
  | succ n ih =>
    obtain ⟨b, r1, hbit, hrest⟩ := nextBits_succ_some h
    obtain ⟨hcur, hnb1⟩ := nextBit_of_held (by omega) hbit
    exact (ih (by omega) hrest).trans hcur

/-- A token that WB holds is read without a refill. -/
theorem fetchToken_of_held {c : Config} {r r' : Retained} {t : Token}
    (hnb : (tokenBits t).length ≤ r.nb.toNat) (h : fetchToken c r = some (t, r')) :
    r'.cur = r.cur := by
  rcases fetchToken_cases h with ⟨rfl, hbit⟩ | ⟨v, r1, rfl, hbit, hbits⟩
  · exact (nextBit_of_held hnb hbit).1
  · have hsix : 6 ≤ r.nb.toNat := hnb
    obtain ⟨hcur, hnb1⟩ := nextBit_of_held (by omega) hbit
    exact (nextBits_of_held (by omega) hbits).trans hcur

/-- A token needs one refill where WB does not hold all of it, and none otherwise. -/
theorem fetchToken_refills {c : Config} {r r' : Retained} {t : Token}
    (h : fetchToken c r = some (t, r')) :
    r'.cur.toNat - r.cur.toNat = if r.nb.toNat < (tokenBits t).length then 1 else 0 := by
  obtain ⟨hlen, hlen'⟩ := tokenBits_length_bounds t
  split
  · obtain ⟨hpos, hle⟩ := fetchToken_moves (by omega) h
    omega
  · rw [fetchToken_of_held (by omega) h, Nat.sub_self]

/-! ### DECODE_TOKEN -/

/-- The cost of a token, less refills (R191). -/
def tokenCost (c : Config) : Token → Nat
  | .keep => c.cTokenKeep
  | .set _ => c.cTokenSet

/-- A DECODE_TOKEN step that reads its token costs the token and the refills. -/
theorem decodeTokenCost_of_fetch {s : State} {t : Token} {r : Retained}
    (h : fetchToken s.cfg s.ret = some (t, r)) :
    decodeTokenCost s =
      tokenCost s.cfg t + (r.cur.toNat - s.ret.cur.toNat) * s.cfg.cRefill := by
  rw [decodeTokenCost, h]
  cases t <;> rfl

theorem stepCost_decodeToken_of_fetch {s : State} {t : Token} {r : Retained} (k : PhaseIndex)
    (h : fetchToken s.cfg s.ret = some (t, r)) :
    stepCost (.decodeToken k) s = tokenCost s.cfg t +
      if s.ret.nb.toNat < (tokenBits t).length then s.cfg.cRefill else 0 := by
  rw [stepCost, decodeTokenCost_of_fetch h, fetchToken_refills h, ite_mul, Nat.one_mul,
    Nat.zero_mul]

theorem stepCost_decodeToken_of_clear {s : State} {rest : List Bool} (k : PhaseIndex)
    (h : pendingBits s.cfg s.ret = false :: rest) :
    stepCost (.decodeToken k) s =
      s.cfg.cTokenKeep + if s.ret.nb = 0 then s.cfg.cRefill else 0 := by
  obtain ⟨r, hfetch, -⟩ := fetchToken_of_pending .keep h
  have hempty : s.ret.nb.toNat < (tokenBits .keep).length ↔ s.ret.nb = 0 :=
    Nat.lt_one_iff.trans (BitVec.toNat_inj (y := 0#4))
  rw [stepCost_decodeToken_of_fetch k hfetch]
  simp only [hempty]
  rfl

theorem stepCost_decodeToken_of_set {s : State} {bs rest : List Bool} (k : PhaseIndex)
    (hlen : bs.length = 5) (h : pendingBits s.cfg s.ret = true :: bs ++ rest) :
    stepCost (.decodeToken k) s =
      s.cfg.cTokenSet + if s.ret.nb.toNat < 6 then s.cfg.cRefill else 0 := by
  obtain ⟨r1, hflag, h1⟩ := nextBit_of_pending h
  obtain ⟨r2, hlevel, -⟩ := nextBits_of_pending bs h1.pending 0
  rw [hlen] at hlevel
  exact stepCost_decodeToken_of_fetch k (fetchToken_of_set hflag hlevel)

/-! ### SCAN_CELL and DECODE_BEGIN -/

/-- A dark cell costs the skip, a lit one the pulse and its hold. -/
theorem stepCost_scanCell (k : Fin 40) (s : State) :
    stepCost (.scanCell (BitVec.ofNat 6 k.val)) s =
      if s.ret.buf[s.cfg.scanOrder[k]] = 0 then s.cfg.cCellSkip
      else s.cfg.cCellPulse + onTime s.cfg s.ret.buf[s.cfg.scanOrder[k]] := by
  rw [stepCost, scanCellCost, cellOperand_slotIndex]
  rfl

/-- DECODE_BEGIN costs more where the loop ends. -/
theorem stepCost_decodeBegin (s : State) :
    stepCost .decodeBegin s =
      if s.ret.fc = s.cfg.frameCount then s.cfg.cDecodeBeginReset else s.cfg.cDecodeBegin := by
  simp only [stepCost, loopEnds, beq_iff_eq]

/-- Settles O41: a token by its refills, a cell by its on-time, DECODE_BEGIN by its comparison, and
every other step and event by its own constant. -/
theorem stepCostsFollowTheCostTable : Obligations.StepCostsFollowTheCostTable := by
  refine ⟨fun s k => ⟨fun rest h => stepCost_decodeToken_of_clear k h,
    fun bs rest hlen h => stepCost_decodeToken_of_set k hlen h⟩, fun s k => ?_,
    fun s => ⟨fun hfc => ?_, fun hfc => ?_, rfl, rfl, fun _ => rfl, rfl, rfl, rfl, rfl, rfl⟩⟩
  · intro d
    have hcost := stepCost_scanCell k s
    change _ = if d = 0 then _ else _ + onTime s.cfg d at hcost
    clear_value d
    refine ⟨fun hd => ?_, fun hd => ?_, fun hd => ?_⟩
    · rw [hcost, if_pos hd]
    · rw [hcost, hd, if_neg (by decide), onTime_one]
    · have hlit : d ≠ 0 := by
        rintro rfl
        exact absurd hd (by decide)
      rw [hcost, if_neg hlit, onTime_of_two_le s.cfg hd]
  · rw [stepCost_decodeBegin, if_pos hfc]
  · rw [stepCost_decodeBegin, if_neg hfc]

end Sys2Proof.Machine
end

section
/-! SUPPORT. The bound on WT_CNT (spec/70_reset_and_hazards.md R185): what it says at each phase,
that every step and event keeps it, and that TIMEOUT outside SLEEP, which the budget excludes, is
alone in recording WAKE_OVERRUN. -/

namespace Sys2Proof.Machine

/-! ### The bound of a decode under way -/

/-- WT_CNT is at most the whole scan, DECODE_BEGIN and n tokens, each at its longest, with the
refills that 6·n bits and the NB still in WB account for. -/
def DecodeWithin (c : Config) (n nb cnt : Nat) : Prop :=
  ∃ refills : Nat, 8 * refills ≤ 6 * n + nb ∧
    cnt ≤ 40 * cellTime c + c.cScanEnd + c.cDecodeBeginReset + n * c.cTokenSet +
      refills * c.cRefill

theorem decodeWithin_zero {c : Config} {cnt : Nat} (nb : Nat)
    (h : cnt ≤ 40 * cellTime c + c.cScanEnd + c.cDecodeBeginReset) : DecodeWithin c 0 nb cnt :=
  ⟨0, Nat.zero_le _, by omega⟩

theorem tokenCost_le_set {c : Config} (hb : TimingBudgetOk c) (t : Token) :
    tokenCost c t ≤ c.cTokenSet := by
  obtain ⟨-, -, -, -, hkeep, -⟩ := hb
  cases t with
  | keep => exact hkeep
  | set l => exact le_refl _

/-- A token more, with its cost, keeps the bound. -/
theorem DecodeWithin.after_fetchToken {s : State} {n : Nat} {t : Token} {r : Retained}
    (h : DecodeWithin s.cfg n s.ret.nb.toNat s.wtCnt) (hb : TimingBudgetOk s.cfg)
    (hnb : s.ret.nb.toNat ≤ 8) (hfetch : fetchToken s.cfg s.ret = some (t, r)) :
    DecodeWithin s.cfg (n + 1) r.nb.toNat (s.wtCnt + decodeTokenCost s) := by
  obtain ⟨refills, hr, hcnt⟩ := h
  obtain ⟨hpos, -⟩ := fetchToken_moves hnb hfetch
  obtain ⟨hlen, hlen'⟩ := tokenBits_length_bounds t
  have hcost := tokenCost_le_set hb t
  refine ⟨refills + (r.cur.toNat - s.ret.cur.toNat), by omega, ?_⟩
  rw [decodeTokenCost_of_fetch hfetch, Nat.add_mul, Nat.add_mul]
  omega

/-! ### The bound at each phase -/

section
variable {s : State}

theorem budgetInv_of_faulted (h : s.ph = faultPhase) : BudgetInv s := by
  rw [BudgetInv, h, decodePhase_fault]
  trivial

theorem budgetInv_dispatch (h : decodePhase s.ph = .dispatch) :
    BudgetInv s ↔ s.wtInt = 0 ∧ s.wtCnt = 0 := by
  rw [BudgetInv, h]

theorem budgetInv_coldInit (h : decodePhase s.ph = .coldInit) :
    BudgetInv s ↔ s.wtInt = 0 ∧ s.wtCnt ≤ s.cfg.cDispatch := by
  rw [BudgetInv, h]

theorem budgetInv_armTimer {p : BitVec 1} (h : decodePhase s.ph = .armTimer p) :
    BudgetInv s ↔
      s.wtInt = 0 ∧ s.wtCnt ≤ s.cfg.cDispatch + (if p = 0 then s.cfg.cColdInit else 0) := by
  rw [BudgetInv, h]

theorem budgetInv_scanCell {k : PhaseIndex} (h : decodePhase s.ph = .scanCell k) :
    BudgetInv s ↔ s.wtInt = 1 ∧ s.wtCnt ≤ k.toNat * cellTime s.cfg := by
  rw [BudgetInv, h]

theorem budgetInv_scanEnd (h : decodePhase s.ph = .scanEnd) :
    BudgetInv s ↔ s.wtInt = 1 ∧ s.wtCnt ≤ 40 * cellTime s.cfg := by
  rw [BudgetInv, h]

theorem budgetInv_decodeBegin (h : decodePhase s.ph = .decodeBegin) :
    BudgetInv s ↔ s.wtInt = 1 ∧ s.wtCnt ≤ 40 * cellTime s.cfg + s.cfg.cScanEnd := by
  rw [BudgetInv, h]

theorem budgetInv_decodeToken {slot : PhaseIndex} (h : decodePhase s.ph = .decodeToken slot) :
    BudgetInv s ↔
      s.wtInt = 1 ∧ DecodeWithin s.cfg (39 - slot.toNat) s.ret.nb.toNat s.wtCnt := by
  rw [BudgetInv, h]
  rfl

theorem budgetInv_sleep (h : decodePhase s.ph = .sleep) : BudgetInv s ↔ s.wtInt = 1 := by
  rw [BudgetInv, h]

end

/-! ### Each step keeps it -/

/-- A step that does not restart the timer adds its cost to WT_CNT, in the same interval. -/
theorem settle_timer {i : Instr} {s u : State} (hw : writesCount i = false)
    (hu : exec i s = .next u) (hp : u.ph ≠ faultPhase) :
    (settle i s u).wtInt = s.wtInt ∧ (settle i s u).wtCnt = s.wtCnt + stepCost i s := by
  obtain ⟨hint, hcnt⟩ := exec_timer_of_not_writesCount hu hw
  rw [settle_running hp]
  simp [hint, hcnt, hw]

theorem scanCellPhase_ne_fault (k : PhaseIndex) : scanCellPhase k ≠ faultPhase := by
  obtain ⟨-, -, -, hfault⟩ := scanCellPhase_ne k
  exact hfault

theorem decodeTokenPhase_ne_fault (slot : PhaseIndex) : decodeTokenPhase slot ≠ faultPhase := by
  obtain ⟨-, -, -, hfault⟩ := decodeTokenPhase_ne slot
  exact hfault

theorem execDispatch_keeps_budget {s u : State} (hd : decodePhase s.ph = .dispatch)
    (h : BudgetInv s) (hu : exec .dispatch s = .next u) : BudgetInv (settle .dispatch s u) := by
  obtain ⟨hint, hcnt⟩ := (budgetInv_dispatch hd).1 h
  rcases execDispatch_next hu with ⟨-, rfl⟩ | ⟨-, rfl⟩ <;>
    obtain ⟨hint', hcnt'⟩ := settle_timer rfl hu (by rw [setPhase_ph]; decide) <;>
    simp only [hint, hcnt, stepCost] at hint' hcnt'
  · exact (budgetInv_armTimer (decodePhase_armTimer 1)).2 ⟨hint', hcnt'.le.trans (by simp)⟩
  · exact (budgetInv_coldInit decodePhase_coldInit).2 ⟨hint', hcnt'.le.trans (by simp)⟩

theorem execColdInit_keeps_budget {s u : State} (hd : decodePhase s.ph = .coldInit)
    (h : BudgetInv s) (hu : exec .coldInit s = .next u) : BudgetInv (settle .coldInit s u) := by
  obtain ⟨hint, hcnt⟩ := (budgetInv_coldInit hd).1 h
  obtain rfl := Host.Outcome.next.inj ((exec_coldInit s).symm.trans hu)
  obtain ⟨hint', hcnt'⟩ := settle_timer rfl hu (by rw [setPhase_ph]; decide)
  refine (budgetInv_armTimer (decodePhase_armTimer 0)).2 ⟨hint'.trans hint, ?_⟩
  rw [hcnt']
  exact Nat.add_le_add_right hcnt _

/-- ARM_TIMER starts the count of the steady interval. -/
theorem execArmTimer_keeps_budget {p : BitVec 1} {s u : State}
    (hu : exec (.armTimer p) s = .next u) : BudgetInv (settle (.armTimer p) s u) := by
  cases hu
  by_cases hp : p = 0
  · refine (budgetInv_sleep ?_).2 rfl
    rw [settle_ph, setPhase_ph, if_pos hp, decodePhase_sleep]
  · refine (budgetInv_scanCell (k := 0) ?_).2 ⟨rfl, ?_⟩
    · rw [settle_ph, setPhase_ph, if_neg hp, decodePhase_scanCell (by decide)]
    · rw [settle_running (by rw [setPhase_ph, if_neg hp]; exact scanCellPhase_ne_fault 0)]
      exact Nat.zero_le _

theorem execScanCell_keeps_budget {k : PhaseIndex} {s u : State} (hl : legal s.cfg = true)
    (hb : TimingBudgetOk s.cfg) (hd : decodePhase s.ph = .scanCell k) (h : BudgetInv s)
    (hu : exec (.scanCell k) s = .next u) : BudgetInv (settle (.scanCell k) s u) := by
  obtain ⟨hint, hcnt⟩ := (budgetInv_scanCell hd).1 h
  have hcost := scanCellCost_le hl hb k
  rcases execScanCell_next hu with ⟨-, rfl⟩ | ⟨pos, hpos, hlit⟩
  · exact budgetInv_of_faulted rfl
  have hk := lt_of_cellOperand_some hpos
  have hph : u.ph = phaseAfterCell k := by rcases hlit with ⟨-, rfl⟩ | ⟨-, rfl⟩ <;> rfl
  have hcfg : u.cfg = s.cfg := exec_cfg hu
  obtain ⟨hint', hcnt'⟩ := settle_timer rfl hu (hph ▸ phaseAfterCell_ne_fault hk)
  simp only [stepCost] at hcnt'
  have hsum : (k.toNat + 1) * cellTime s.cfg = k.toNat * cellTime s.cfg + cellTime s.cfg :=
    Nat.succ_mul _ _
  rcases phaseAfterCell_cases hk with ⟨rfl, e⟩ | ⟨hlt, e, hsucc⟩
  · refine (budgetInv_scanEnd ?_).2 ⟨hint'.trans hint, ?_⟩
    · rw [settle_ph, hph, e, decodePhase_scanEnd]
    · rw [hcnt', settle_cfg, hcfg]
      exact le_of_le_of_eq (Nat.add_le_add hcnt hcost) hsum.symm
  · refine (budgetInv_scanCell (k := k + 1) ?_).2 ⟨hint'.trans hint, ?_⟩
    · rw [settle_ph, hph, e, decodePhase_scanCell (by omega)]
    · rw [hcnt', settle_cfg, hcfg, hsucc, hsum]
      exact Nat.add_le_add hcnt hcost

theorem execScanEnd_keeps_budget {s u : State} (hd : decodePhase s.ph = .scanEnd)
    (h : BudgetInv s) (hu : exec .scanEnd s = .next u) : BudgetInv (settle .scanEnd s u) := by
  obtain ⟨hint, hcnt⟩ := (budgetInv_scanEnd hd).1 h
  rcases execScanEnd_next hu with ⟨-, rfl⟩ | ⟨-, rfl⟩ <;>
    obtain ⟨hint', hcnt'⟩ := settle_timer rfl hu (by rw [setPhase_ph]; decide)
  · refine (budgetInv_decodeBegin decodePhase_decodeBegin).2 ⟨hint'.trans hint, ?_⟩
    rw [hcnt']
    exact Nat.add_le_add_right hcnt _
  · exact (budgetInv_sleep decodePhase_sleep).2 (hint'.trans hint)

theorem execDecodeBegin_keeps_budget {s u : State} (hb : TimingBudgetOk s.cfg)
    (hd : decodePhase s.ph = .decodeBegin) (h : BudgetInv s)
    (hu : exec .decodeBegin s = .next u) : BudgetInv (settle .decodeBegin s u) := by
  obtain ⟨hint, hcnt⟩ := (budgetInv_decodeBegin hd).1 h
  obtain ⟨-, -, -, -, -, hbegin⟩ := hb
  have hcost : stepCost .decodeBegin s ≤ s.cfg.cDecodeBeginReset := by
    rw [stepCost_decodeBegin]
    split
    · exact le_refl _
    · exact hbegin
  obtain ⟨r, -, rfl⟩ := execDecodeBegin_next hu
  obtain ⟨hint', hcnt'⟩ := settle_timer rfl hu (decodeTokenPhase_ne_fault 39)
  refine (budgetInv_decodeToken (slot := 39) ?_).2 ⟨hint'.trans hint, ?_⟩
  · rw [settle_ph, setPhase_ph, decodePhase_decodeToken (by decide)]
  · rw [hcnt', settle_cfg, setPhase_cfg, show 39 - (39 : PhaseIndex).toNat = 0 from rfl]
    exact decodeWithin_zero _ (Nat.add_le_add hcnt hcost)

theorem execDecodeToken_keeps_budget {slot : PhaseIndex} {s u : State}
    (hb : TimingBudgetOk s.cfg) (hnb : s.ret.nb.toNat ≤ 8)
    (hd : decodePhase s.ph = .decodeToken slot) (h : BudgetInv s)
    (hu : exec (.decodeToken slot) s = .next u) : BudgetInv (settle (.decodeToken slot) s u) := by
  obtain ⟨hint, hwithin⟩ := (budgetInv_decodeToken hd).1 h
  rcases execDecodeToken_next hu with ⟨-, rfl⟩ | ⟨_, -, -, rfl⟩ | ⟨i, tok, r, hslot, hfetch, rfl⟩
  · exact budgetInv_of_faulted rfl
  · exact budgetInv_of_faulted rfl
  have hlt := lt_of_cellOperand_some hslot
  obtain ⟨hint', hcnt'⟩ := settle_timer rfl hu (phaseAfterToken_ne_fault slot)
  rcases phaseAfterToken_cases slot with ⟨-, e⟩ | ⟨-, e, hsub⟩
  · refine (budgetInv_sleep ?_).2 (hint'.trans hint)
    rw [settle_ph, setPhase_ph, e, decodePhase_sleep]
  · refine (budgetInv_decodeToken (slot := slot - 1) ?_).2 ⟨hint'.trans hint, ?_⟩
    · rw [settle_ph, setPhase_ph, e, decodePhase_decodeToken (by omega)]
    · rw [hcnt', show 39 - (slot - 1).toNat = 39 - slot.toNat + 1 by omega]
      simpa [stepCost] using hwithin.after_fetchToken hb hnb hfetch

/-- The sequencer's step at PH keeps the bound. -/
theorem exec_decodePhase_keeps_budget {i : Instr} {s u : State} (hl : legal s.cfg = true)
    (hb : TimingBudgetOk s.cfg) (hi : RunInv s) (h : BudgetInv s) (hd : decodePhase s.ph = i)
    (hu : exec i s = .next u) : BudgetInv (settle i s u) := by
  have hcode := encode_decodePhase s.ph
  rw [hd] at hcode
  cases i with
  | keep | set | powerOn | timeout | externalReset | otherReset => cases hcode
  | dispatch => exact execDispatch_keeps_budget hd h hu
  | coldInit => exact execColdInit_keeps_budget hd h hu
  | armTimer p => exact execArmTimer_keeps_budget hu
  | scanCell k => exact execScanCell_keeps_budget hl hb hd h hu
  | scanEnd => exact execScanEnd_keeps_budget hd h hu
  | decodeBegin => exact execDecodeBegin_keeps_budget hb hd h hu
  | decodeToken slot =>
    obtain ⟨hdisp, hinit, -, hflt⟩ := decodeTokenPhase_ne slot
    obtain ⟨-, -, hnb, -⟩ := hi.inRange_of_ne (Code.phase.inj hcode) hdisp hinit hflt
    exact execDecodeToken_keeps_budget hb hnb hd h hu
  | sleep =>
    cases hu
    exact (budgetInv_sleep (s := settle .sleep s s) hd).2 ((budgetInv_sleep hd).1 h)
  | fault => cases hu
  | illegal ph => cases hu; exact budgetInv_of_faulted rfl

/-- A reset starts the count of the default interval. -/
theorem budgetInv_of_reset {i : Instr} {s u : State} {c : EventCode}
    (hw : writesCount i = true) : BudgetInv (settle i s (resetEntry c u)) := by
  refine (budgetInv_dispatch decodePhase_dispatch).2 ⟨rfl, ?_⟩
  rw [settle_running (show dispatchPhase ≠ faultPhase by decide), if_pos hw]
  rfl

theorem exec_select_keeps_budget {s u : State} (hl : legal s.cfg = true)
    (hb : TimingBudgetOk s.cfg) (hi : RunInv s) (h : BudgetInv s)
    (hu : exec (select s) s = .next u) : BudgetInv (settle (select s) s u) := by
  rcases select_event_or_decodePhase s with e | e | e | e | e <;> rw [e] at hu ⊢
  · cases hu; exact budgetInv_of_reset rfl
  · rcases execTimeout_next hu with ⟨-, rfl⟩ | ⟨-, rfl⟩
    · exact budgetInv_of_reset rfl
    · exact budgetInv_of_faulted rfl
  · cases hu; exact budgetInv_of_reset rfl
  · cases hu; exact budgetInv_of_reset rfl
  · exact exec_decodePhase_keeps_budget hl hb hi h rfl hu

/-! ### WAKE_OVERRUN -/

/-- TIMEOUT outside SLEEP alone records WAKE_OVERRUN (R136, R151). -/
theorem exec_wakeOverrun {i : Instr} {s t : State} (h : exec i s = .next t)
    (hs : s.fault ≠ some .wakeOverrun) (ht : t.fault = some .wakeOverrun) :
    i = .timeout ∧ s.ph ≠ sleepPhase := by
  cases i with
  | timeout =>
    rcases execTimeout_next h with ⟨-, rfl⟩ | ⟨hp, rfl⟩
    · exact absurd ht hs
    · exact ⟨rfl, hp⟩
  | keep | set =>
    dsimp only [exec, execKeep, execSet] at h
    split at h
    · cases h; cases ht
    · split at h <;> cases h
      · cases ht
      · exact absurd ht hs
  | dispatch => rcases execDispatch_next h with ⟨-, rfl⟩ | ⟨-, rfl⟩ <;> exact absurd ht hs
  | scanCell k =>
    rcases execScanCell_next h with ⟨-, rfl⟩ | ⟨_, -, ⟨-, rfl⟩ | ⟨-, rfl⟩⟩
    · cases ht
    · exact absurd ht hs
    · exact absurd ht hs
  | scanEnd => rcases execScanEnd_next h with ⟨-, rfl⟩ | ⟨-, rfl⟩ <;> exact absurd ht hs
  | decodeBegin =>
    obtain ⟨r, -, rfl⟩ := execDecodeBegin_next h
    exact absurd ht hs
  | decodeToken slot =>
    rcases execDecodeToken_next h with ⟨-, rfl⟩ | ⟨_, -, -, rfl⟩ | ⟨_, _, _, -, -, rfl⟩
    · cases ht
    · cases ht
    · exact absurd ht hs
  | fault => cases h
  | illegal ph => cases h; cases ht
  | powerOn => cases h; cases ht
  | coldInit | armTimer | sleep | externalReset | otherReset => cases h; exact absurd ht hs

/-- TIMEOUT is selected where the timer expires. -/
theorem expiry_of_select_timeout {s : State} (h : select s = .timeout) :
    s.ph ≠ faultPhase ∧ timerExpires (decodePhase s.ph) s = true := by
  rcases select_cases s with ⟨-, e⟩ | ⟨-, -, e⟩ | ⟨-, -, i, ha, e⟩ | ⟨-, hp, -, ht, -⟩ |
    ⟨-, -, -, -, e⟩
  case inr.inr.inr.inl => exact ⟨hp, ht⟩
  all_goals rw [h] at e
  · cases e
  · cases e
  · rcases arrivingReset_cases ha with rfl | rfl <;> cases e
  · have hcode := encode_decodePhase s.ph
    rw [← e] at hcode
    cases hcode

/-- Settles O52: each step and event keeps the bound, under which the timer expires in SLEEP alone,
and there TIMEOUT is the periodic wake. -/
theorem timingBudgetExcludesWakeOverrun : Obligations.TimingBudgetExcludesWakeOverrun := by
  intro s t hl hb ho hi hbudget h
  obtain ⟨-, u, hu, rfl⟩ := step_next h
  refine ⟨exec_select_keeps_budget hl hb hi hbudget hu, fun hs ht => ?_⟩
  obtain ⟨hsel, hawake⟩ := exec_wakeOverrun hu hs ht
  obtain ⟨hp, hexp⟩ := expiry_of_select_timeout hsel
  exact hawake (eq_sleepPhase_of_decode (hbudget.sleep_of_expiry hl hb ho hi hp hexp))

end Sys2Proof.Machine
end

section
/-! SUPPORT. The refresh period (spec/70_reset_and_hazards.md R192, spec/42_controller.md R139): an
undisturbed run in the steady state, the wake's steps up to the arming of the timer, and from there
the steps to SLEEP and the wait, over which the clock and WT_CNT advance together. -/

namespace Sys2Proof.Machine

/-! ### The steady state -/

/-- An undisturbed run within the budget, with a well-formed asset. -/
structure SteadyRun (s : State) : Prop where
  undisturbed : Undisturbed s
  budgetOk : TimingBudgetOk s.cfg
  asset : assetWellFormed s.cfg = true
  runInv : RunInv s
  position : PositionInv s

theorem SteadyRun.next {s t : State} (hs : SteadyRun s) (h : step s = .next t) : SteadyRun t where
  undisturbed := hs.undisturbed.next h
  budgetOk := step_cfg h ▸ hs.budgetOk
  asset := step_cfg h ▸ hs.asset
  runInv := stepKeepsTheRunInvariant s t hs.undisturbed.legal hs.runInv h
  position := stepKeepsTheFramePosition s t hs.undisturbed.legal hs.position h

/-- A token that is due can be read (R99). -/
theorem SteadyRun.fetchToken_ne_none {s : State} {slot : PhaseIndex} (hs : SteadyRun s)
    (hd : decodePhase s.ph = .decodeToken slot) : fetchToken s.cfg s.ret ≠ none := by
  have hwf := decodePhase_wf s.ph
  have hcode := encode_decodePhase s.ph
  rw [hd] at hwf hcode
  obtain ⟨hr, hpos⟩ := hs.position.readerAfter_slot (of_decide_eq_true hwf) (Code.phase.inj hcode)
  exact hr.fetchToken_ne_none hs.asset (by omega)

/-! ### From TIMEOUT to the arming of the timer -/

/-- A warm DISPATCH just after its TIMEOUT. -/
structure WarmStart (s : State) : Prop where
  steady : SteadyRun s
  ph : s.ph = dispatchPhase
  cause : s.cause = 1
  wtInt : s.wtInt = 0
  wtCnt : s.wtCnt = 0

theorem SteadyRun.wakes {s : State} (hs : SteadyRun s) (hp : s.ph = sleepPhase)
    (ht : interval s ≤ s.wtCnt) :
    ∃ t, step s = .next t ∧ WarmStart t ∧ t.cfg = s.cfg ∧ t.time = s.time + s.cfg.cReset := by
  have hstep := hs.undisturbed.wakes hp ht
  have ht := hs.next hstep
  rw [settle_resetEntry (i := .timeout) rfl] at hstep ht
  exact ⟨_, hstep, ⟨ht, rfl, rfl, rfl, rfl⟩, rfl, rfl⟩

/-- The wake is under way since the timer was armed at clock `start`, within the interval. -/
structure Armed (start : Nat) (s : State) : Prop where
  steady : SteadyRun s
  budget : BudgetInv s
  wtInt : s.wtInt = 1
  inTime : s.wtCnt < s.cfg.steadyInterval
  clock : s.time = start + s.wtCnt

/-- The state after the warm path's DISPATCH. -/
def warmDispatched (s : State) : State :=
  { s with
    ph := armTimerPhase 1
    wtCnt := s.cfg.cDispatch
    time := s.time + s.cfg.cDispatch }

section
variable {s : State} (hs : WarmStart s)
include hs

theorem WarmStart.step_dispatch : step s = .next (warmDispatched s) := by
  obtain ⟨-, hwarm, -⟩ := hs.steady.budgetOk
  have hlt : s.wtCnt + stepCost .dispatch s < interval s := by
    rw [interval_default hs.wtInt, hs.wtCnt]
    simp only [stepCost]
    omega
  rw [hs.steady.undisturbed.step_of_lt (by rw [hs.ph, decodePhase_dispatch]) hlt
    (exec_dispatch_warm hs.cause) (show armTimerPhase 1 ≠ faultPhase by decide)]
  simp [warmDispatched, setPhase, stepCost, writesCount, hs.wtCnt]

/-- The two steps that lead to SCAN_CELL(0) with the timer just armed. -/
theorem WarmStart.arms :
    ∃ t u, step s = .next t ∧ step t = .next u ∧ u.cfg = s.cfg ∧ u.ph = scanCellPhase 0 ∧
      Armed (s.time + (s.cfg.cDispatch + s.cfg.cArm)) u := by
  have hstep := hs.step_dispatch
  have ht := hs.steady.next hstep
  obtain ⟨-, hwarm, hsteady, -⟩ := hs.steady.budgetOk
  have hlt : (warmDispatched s).wtCnt + stepCost (.armTimer 1) (warmDispatched s) <
      interval (warmDispatched s) := by
    rw [interval_default (show (warmDispatched s).wtInt = 0 from hs.wtInt)]
    exact hwarm
  have harm := ht.undisturbed.step_of_lt (decodePhase_armTimer 1) hlt (exec_armTimer_warm _)
    (scanCellPhase_ne_fault 0)
  refine ⟨_, _, hstep, harm, rfl, rfl, ht.next harm, ?_, rfl, Nat.zero_lt_of_lt hsteady, ?_⟩
  · exact (budgetInv_scanCell (decodePhase_scanCell (k := 0) (by decide))).2 ⟨rfl, Nat.zero_le _⟩
  · exact Nat.add_assoc _ _ _

end

/-! ### The steps of a wake after arming -/

/-- The most steps a wake still takes from the one named up to SLEEP, for the steps after arming. -/
def wakeSteps : Instr → Option Nat
  | .scanCell k => some (82 - k.toNat)
  | .scanEnd => some 42
  | .decodeBegin => some 41
  | .decodeToken slot => some (slot.toNat + 1)
  | .sleep => some 0
  | _ => none

theorem eq_sleep_of_wakeSteps {i : Instr} (h : wakeSteps i = some 0) (hwf : i.wf = true) :
    i = .sleep := by
  cases i with
  | sleep => rfl
  | scanCell k =>
    have hk : k.toNat < 40 := of_decide_eq_true hwf
    have h0 : 82 - k.toNat = 0 := Option.some.inj h
    omega
  | _ => cases h

/-- Each of these steps that raises no fault is followed by one with fewer steps still to take. -/
theorem exec_wakeSteps {i : Instr} {s u : State} {n : Nat} (h : exec i s = .next u)
    (hp : u.ph ≠ faultPhase) (hn : wakeSteps i = some (n + 1)) :
    ∃ m ≤ n, wakeSteps (decodePhase u.ph) = some m := by
  cases i with
  | scanCell k =>
    have hn : 82 - k.toNat = n + 1 := Option.some.inj hn
    rcases execScanCell_next h with ⟨-, rfl⟩ | ⟨pos, hpos, hlit⟩
    · exact absurd rfl hp
    have hk := lt_of_cellOperand_some hpos
    have hph : u.ph = phaseAfterCell k := by rcases hlit with ⟨-, rfl⟩ | ⟨-, rfl⟩ <;> rfl
    rcases phaseAfterCell_cases hk with ⟨-, e⟩ | ⟨hlt, e, hsucc⟩
    · exact ⟨42, by omega, by rw [hph, e, decodePhase_scanEnd]; rfl⟩
    · refine ⟨82 - (k + 1).toNat, by omega, ?_⟩
      rw [hph, e, decodePhase_scanCell (by omega)]
      rfl
  | scanEnd =>
    obtain rfl : 41 = n := Nat.succ.inj (Option.some.inj hn)
    rcases execScanEnd_next h with ⟨-, rfl⟩ | ⟨-, rfl⟩
    · exact ⟨41, le_refl _, by rw [setPhase_ph, decodePhase_decodeBegin]; rfl⟩
    · exact ⟨0, Nat.zero_le _, by rw [setPhase_ph, decodePhase_sleep]; rfl⟩
  | decodeBegin =>
    obtain rfl : 40 = n := Nat.succ.inj (Option.some.inj hn)
    obtain ⟨r, -, rfl⟩ := execDecodeBegin_next h
    exact ⟨40, le_refl _, by rw [setPhase_ph, decodePhase_decodeToken (by decide)]; rfl⟩
  | decodeToken slot =>
    obtain rfl : slot.toNat = n := Nat.succ.inj (Option.some.inj hn)
    rcases execDecodeToken_next h with ⟨-, rfl⟩ | ⟨_, -, -, rfl⟩ | ⟨i, tok, r, hslot, -, rfl⟩
    · exact absurd rfl hp
    · exact absurd rfl hp
    have hlt := lt_of_cellOperand_some hslot
    rcases phaseAfterToken_cases slot with ⟨-, e⟩ | ⟨-, e, hsub⟩
    · exact ⟨0, Nat.zero_le _, by rw [setPhase_ph, e, decodePhase_sleep]; rfl⟩
    · refine ⟨(slot - 1).toNat + 1, by omega, ?_⟩
      rw [setPhase_ph, e, decodePhase_decodeToken (by omega)]
      rfl
  | _ => cases hn

/-- In the steady state none of these steps raises a fault. -/
theorem SteadyRun.exec_ne_fault {i : Instr} {s u : State} {n : Nat} (hs : SteadyRun s)
    (hd : decodePhase s.ph = i) (hu : exec i s = .next u) (hn : wakeSteps i = some n) :
    u.ph ≠ faultPhase := by
  have hwf := decodePhase_wf s.ph
  rw [hd] at hwf
  cases i with
  | scanCell k =>
    have hk : k.toNat < 40 := of_decide_eq_true hwf
    rcases execScanCell_next hu with ⟨hnone, -⟩ | ⟨_, -, ⟨-, rfl⟩ | ⟨-, rfl⟩⟩
    · rw [cellOperand_of_lt hk] at hnone
      cases hnone
    all_goals exact phaseAfterCell_ne_fault hk
  | scanEnd => rcases execScanEnd_next hu with ⟨-, rfl⟩ | ⟨-, rfl⟩ <;> rw [setPhase_ph] <;> decide
  | decodeBegin =>
    obtain ⟨r, -, rfl⟩ := execDecodeBegin_next hu
    exact decodeTokenPhase_ne_fault 39
  | decodeToken slot =>
    rcases execDecodeToken_next hu with ⟨hnone, -⟩ | ⟨_, -, hnone, -⟩ | ⟨_, _, _, -, -, rfl⟩
    · rw [cellOperand_of_lt (of_decide_eq_true hwf)] at hnone
      cases hnone
    · exact absurd hnone (hs.fetchToken_ne_none hd)
    · exact phaseAfterToken_ne_fault slot
  | sleep =>
    cases hu
    rw [eq_sleepPhase_of_decode hd]
    decide
  | _ => cases hn

/-- A decode of at most 40 tokens fits beside the scan: 30 refills are enough for it. -/
theorem DecodeWithin.lt_steady {c : Config} {n nb cnt : Nat} (h : DecodeWithin c n nb cnt)
    (hb : TimingBudgetOk c) (hn : n ≤ 40) (hnb : nb ≤ 7) : cnt < c.steadyInterval := by
  obtain ⟨refills, hr, hcnt⟩ := h
  obtain ⟨-, -, hsteady, -⟩ := hb
  have htokens : n * c.cTokenSet ≤ 40 * c.cTokenSet := Nat.mul_le_mul_right _ hn
  have hrefills : refills * c.cRefill ≤ 30 * c.cRefill := Nat.mul_le_mul_right _ (by omega)
  omega

/-- Each of these steps ends before the steady interval does; a token that is read is no overrun,
whose cost the budget does not bound (log 11). -/
theorem Armed.step_in_time {start : Nat} {i : Instr} {s : State} {n : Nat} (h : Armed start s)
    (hd : decodePhase s.ph = i) (hn : wakeSteps i = some (n + 1)) :
    s.wtCnt + stepCost i s < s.cfg.steadyInterval := by
  have hwf := decodePhase_wf s.ph
  have hcode := encode_decodePhase s.ph
  rw [hd] at hwf hcode
  have hb := h.steady.budgetOk
  have hclauses := hb
  obtain ⟨-, -, hsteady, -, -, hbegin⟩ := hclauses
  cases i with
  | scanCell k =>
    obtain ⟨-, hcnt⟩ := (budgetInv_scanCell hd).1 h.budget
    have hk : k.toNat < 40 := of_decide_eq_true hwf
    have hcost := scanCellCost_le h.steady.undisturbed.legal hb k
    have hcells : (k.toNat + 1) * cellTime s.cfg ≤ 40 * cellTime s.cfg :=
      Nat.mul_le_mul_right _ hk
    rw [Nat.add_mul] at hcells
    simp only [stepCost]
    omega
  | scanEnd =>
    obtain ⟨-, hcnt⟩ := (budgetInv_scanEnd hd).1 h.budget
    simp only [stepCost]
    omega
  | decodeBegin =>
    obtain ⟨-, hcnt⟩ := (budgetInv_decodeBegin hd).1 h.budget
    rw [stepCost_decodeBegin]
    split <;> omega
  | decodeToken slot =>
    obtain ⟨-, hwithin⟩ := (budgetInv_decodeToken hd).1 h.budget
    obtain ⟨hdisp, hinit, -, hflt⟩ := decodeTokenPhase_ne slot
    obtain ⟨-, -, hnb, -⟩ :=
      h.steady.runInv.inRange_of_ne (Code.phase.inj hcode) hdisp hinit hflt
    obtain ⟨⟨t, r⟩, hfetch⟩ := Option.ne_none_iff_exists'.1 (h.steady.fetchToken_ne_none hd)
    obtain ⟨-, hle⟩ := fetchToken_moves hnb hfetch
    exact (hwithin.after_fetchToken hb hnb hfetch).lt_steady hb (by omega) hle
  | _ => cases hn

theorem writesCount_of_wakeSteps {i : Instr} {n : Nat} (h : wakeSteps i = some n) :
    writesCount i = false := by
  cases i with
  | armTimer | powerOn | timeout | externalReset | otherReset => cases h
  | _ => rfl

/-- An armed wake outside SLEEP goes on, and has fewer steps still to take. -/
theorem Armed.goes_on {start : Nat} {s : State} {n : Nat} (h : Armed start s)
    (hn : wakeSteps (decodePhase s.ph) = some (n + 1)) :
    ∃ t, step s = .next t ∧ t.cfg = s.cfg ∧ Armed start t ∧
      ∃ m ≤ n, wakeSteps (decodePhase t.ph) = some m := by
  have hun := h.steady.undisturbed
  have hlt := h.step_in_time rfl hn
  have hexp := timerExpires_of_lt (interval_steady h.wtInt ▸ hlt)
  have hs : s.ph ≠ faultPhase := fun e => by
    rw [e, decodePhase_fault] at hn
    cases hn
  have hw := writesCount_of_wakeSteps hn
  have hsel := select_of_decode hun.started hs hun.no_reset rfl hexp
  obtain ⟨u, hu⟩ := exec_exists_next s (decodePhase_ne_fault hs)
  have hp := h.steady.exec_ne_fault rfl hu hn
  have hstep := step_of_select hun.legal hsel hu
  have hcfg := step_cfg hstep
  obtain ⟨hint, hcnt⟩ := settle_timer hw hu hp
  have hnext := exec_wakeSteps hu hp hn
  obtain ⟨hclock, -⟩ := clockAndTimerAdvanceTogether s _ hstep (hsel ▸ hw)
  have hstart := h.clock
  refine ⟨_, hstep, hcfg, ⟨h.steady.next hstep, ?_, hint.trans h.wtInt, ?_, by omega⟩, hnext⟩
  · exact exec_decodePhase_keeps_budget hun.legal h.steady.budgetOk h.steady.runInv h.budget rfl hu
  · rw [hcnt, hcfg]
    exact hlt

/-! ### Up to the next TIMEOUT -/

theorem run_succ {s t : State} (h : step s = .next t) (n : Nat) :
    Host.Core.run Sys2Proof.core (n + 1) s = Host.Core.run Sys2Proof.core n t := by
  simp only [Host.Core.run, core, h]

/-- The block sleeps with the steady interval elapsed, at a clock time. -/
structure TimeoutDue (time : Nat) (s : State) : Prop where
  ph : s.ph = sleepPhase
  wtInt : s.wtInt = 1
  wtCnt : s.wtCnt = interval s
  time : s.time = time

/-- An armed block that has gone to sleep waits out the interval counted from the arming. -/
theorem Armed.waits {start : Nat} {s : State} (h : Armed start s) (hp : s.ph = sleepPhase) :
    ∃ t, step s = .next t ∧ TimeoutDue (start + s.cfg.steadyInterval) t := by
  have hinterval := interval_steady h.wtInt
  have hlt := h.inTime
  have hcycles : waitCycles s = interval s - s.wtCnt := by
    rw [waitCycles, h.steady.undisturbed.env]
  have hwait := h.steady.undisturbed.sleeps_on hp (by omega)
  rw [settle_sleep hp] at hwait
  refine ⟨_, hwait, hp, h.wtInt, ?_, ?_⟩
  · show s.wtCnt + waitCycles s = interval s
    omega
  · show s.time + waitCycles s = start + s.cfg.steadyInterval
    have hstart := h.clock
    omega

/-- An armed wake completes, and the timeout is due one interval after the arming, however many
steps the wake takes. -/
theorem Armed.completes {start : Nat} {s : State} {n : Nat} (h : Armed start s)
    (hn : wakeSteps (decodePhase s.ph) = some n) :
    ∃ k t, Host.Core.run Sys2Proof.core k s = .next t ∧
      TimeoutDue (start + s.cfg.steadyInterval) t := by
  induction n using Nat.strong_induction_on generalizing s with
  | _ n ih =>
    cases n with
    | zero =>
      have hsleep := eq_sleepPhase_of_decode (eq_sleep_of_wakeSteps hn (decodePhase_wf _))
      obtain ⟨t, hstep, ht⟩ := h.waits hsleep
      exact ⟨1, t, run_succ hstep 0, ht⟩
    | succ n =>
      obtain ⟨t, hstep, hcfg, harmed, m, hm, hsteps⟩ := h.goes_on hn
      obtain ⟨k, v, hrun, hv⟩ := ih m (Nat.lt_succ_of_le hm) harmed hsteps
      exact ⟨k + 1, v, (run_succ hstep k).trans hrun, hcfg ▸ hv⟩

/-- Settles O58: TIMEOUT, DISPATCH and ARM_TIMER(1) take their costs, and the timeout is due one
steady interval after the arming. -/
theorem refreshPeriodIsConstant : Obligations.RefreshPeriodIsConstant := by
  intro s hl hb hwf hi hpos hs henv hph hint hcnt
  have hsteady : SteadyRun s := ⟨⟨hl, hs, henv⟩, hb, hwf, hi, hpos⟩
  obtain ⟨t, hwake, hwarm, hcfg, htime⟩ :=
    hsteady.wakes (hph.trans sleepPhase_eq.symm) hcnt.ge
  obtain ⟨u, v, hdispatch, harm, hcfg', hscan, harmed⟩ := hwarm.arms
  have hsteps : wakeSteps (decodePhase v.ph) = some 82 := by
    rw [hscan, decodePhase_scanCell (by decide)]
    rfl
  obtain ⟨k, w, hrun, hdue⟩ := harmed.completes hsteps
  refine ⟨k + 3, w, ?_, Nat.succ_pos _, hdue.ph.trans sleepPhase_eq, hdue.wtInt, hdue.wtCnt, ?_⟩
  · rw [run_succ hwake, run_succ hdispatch, run_succ harm, hrun]
  · rw [hdue.time, htime, hcfg', hcfg]
    omega

end Sys2Proof.Machine
end
